-- ==== Sys2Proof/Word.lean ====
section
/-! DEFINITION. Words of the DX417 and the things they are made of: data words, lane sets, check codes and stored
words (spec/00_scope.md, Terms; spec/01, R1, R6). -/

namespace Sys2Proof

/-- 32 bits of data, the unit of every transfer on the upstream port. -/
abbrev Word := BitVec 32

/-- A byte lane, or a character of the service link. -/
abbrev Byte := BitVec 8

/-- The byte lanes a write beat enables: bit k enables lane k. -/
abbrev Lanes := BitVec 4

/-- All four lanes. -/
abbrev Lanes.full : Lanes := 0xF#4

/-- The 7-bit check code, c0 the least significant bit (R6). -/
abbrev CheckCode := BitVec 7

/-- What one array location holds (R1). -/
structure StoredWord where
  data : Word
  code : CheckCode
  mark : Bool
  deriving DecidableEq, Repr, Inhabited

namespace StoredWord

/-- Data 0, code 0x00 and a clear mark: zero in all 40 bits (R6, Note). -/
def zero : StoredWord := ⟨0, 0, false⟩

/-- The stored word on the 40 lines of the array port: data lines 0 to 31, check lines 0 to 7 above them (R6). -/
def ofLines (x : BitVec 40) : StoredWord :=
  ⟨x.extractLsb' 0 32, x.extractLsb' 32 7, x.getLsbD 39⟩

/-- The word with the bits of `u` turned over. -/
def flip (w u : StoredWord) : StoredWord :=
  ⟨w.data ^^^ u.data, w.code ^^^ u.code, w.mark ^^ u.mark⟩

end StoredWord

/-- The bits of one location that the SRAM has changed since the part last wrote or read it: a set bit is a changed
bit. The external array is no block of the part, so what it answers is an operand of the rows that read it (log 4). -/
abbrev Upset := StoredWord

end Sys2Proof
end

