-- ==== Sys2Proof/Config.lean ====
section
/-! DEFINITION. What the straps fix (spec/01, R2; spec/00, Array geometry) and the one free value of the model: what
the SRAM holds when power is applied (R1, R133). -/

namespace Sys2Proof

/-- The straps, sampled at power-on (spec/00, Pins and straps). -/
structure Straps where
  size     : BitVec 3
  station  : BitVec 6
  preserve : Bool
  deriving DecidableEq, Repr

namespace Straps

/-- P, the populated array size in words; a SIZE of 7 is taken as 6 (R2). -/
def populated (c : Straps) : Nat := 2 ^ (16 + min c.size.toNat 6)

/-- V, the number of words the master can reach (R2). -/
def visible (c : Straps) : Nat := c.populated - 64

/-- V/8, the number of visible lines. -/
def visibleLines (c : Straps) : Nat := c.visible / 8

/-- The first location of slot n (R2). -/
def slotBase (c : Straps) (n : Fin 8) : Nat := c.populated - 64 + 8 * n.val

/-- The words in one of the 64 guard regions (R2). -/
def regionWords (c : Straps) : Nat := c.populated / 64

end Straps

/-- FREE VALUE (log 5): the 40 lines of a location after the n-th application of power, before the part has written it.
The spec says only that the array holds whatever the SRAM holds. -/
opaque Config.sramAtPowerOn : Nat → Nat → BitVec 40

end Sys2Proof
end

