-- ==== Sys2Proof/Syntax.lean ====
section
/-! DEFINITION. The commands: one constructor per row of spec/opcode_table.json. Every row gives no bits, so the
operands are the ones the row's rules name. -/

namespace Sys2Proof

/-- What makes a system reset (R134): RST_N falls, or RESET_PART takes effect. -/
inductive ResetCause where
  | rstnFalls
  | resetPart
  deriving DecidableEq, Repr

/-- One beat of a write: its data word and its lane set (R17). -/
structure Beat where
  data  : Word
  lanes : Lanes
  deriving DecidableEq, Repr

/-- The nine fault sources, in the order of their codes 1 to 9 (R150). -/
inductive FaultSource where
  | readUncorrectable
  | writeMergeFailed
  | backgroundUncorrectable
  | recordOverflow
  | spareExhausted
  | migrationFailed
  | accessRefused
  | lockFault
  | corrected
  deriving DecidableEq, Repr

/-- The commands of the block. -/
inductive Instr where
  /-- POWER_ON: power is applied with these straps, RST_N at this level. -/
  | powerOn (straps : Straps) (rstN : Bool)
  /-- SYSTEM_RESET: RST_N falls, or RESET_PART takes effect. -/
  | systemReset (cause : ResetCause)
  /-- RST_N_RISES. -/
  | rstNRises
  /-- RESET_COMPLETES. -/
  | resetCompletes
  /-- FILL_BEGINS: a fill that is to run becomes FILLING when the array is free. -/
  | fillBegins
  /-- READ_REQUEST: a plain READ is presented. -/
  | readRequest (address : BitVec 22) (count : Nat) (privileged : Bool)
  /-- WRITE_REQUEST: a plain WRITE is presented. -/
  | writeRequest (address : BitVec 22) (beats : List Beat) (privileged : Bool)
  /-- LOCKED_READ_REQUEST: a locked READ is presented. -/
  | lockedReadRequest (address : BitVec 22) (count : Nat) (privileged : Bool)
  /-- LOCKED_WRITE_REQUEST: a locked WRITE is presented. -/
  | lockedWriteRequest (address : BitVec 22) (beats : List Beat) (privileged : Bool)
  /-- WRITE_INSERTION: a write waiting for space is placed in the queue. -/
  | writeInsertion
  /-- WRITE_COMPLETION: a THROUGH or locked write whose awaited entries have drained is answered. -/
  | writeCompletion
  /-- READ_BEAT_RETAKEN: a read beat whose wait has ended is taken again. -/
  | readBeatRetaken
  /-- FOREGROUND_READ: a plain beat's array read ends. -/
  | foregroundRead (upset : Upset)
  /-- LOCKED_READ_DECODE: a locked read's array read ends. -/
  | lockedReadDecode (upset : Upset)
  /-- DRAIN_END: the head entry's array operation ends. -/
  | drainEnd (upset : Upset)
  /-- PREFETCH_READ: a prefetch word's array read ends. -/
  | prefetchRead (upset : Upset)
  /-- FILL_WRITE: a fill write ends. -/
  | fillWrite
  /-- MIGRATION_START: the engine starts by itself. -/
  | migrationStart
  /-- MIGRATION_READ: the READ grant of a copy step ends. -/
  | migrationRead (upset : Upset)
  /-- MIGRATION_WRITE: the WRITE grant of a copy step ends. -/
  | migrationWrite
  /-- MIGRATION_VERIFY: the VERIFY grant of a copy step ends. -/
  | migrationVerify (upset : Upset)
  /-- SCRUB_WORD: a scrub grant ends. -/
  | scrubWord (upset : Upset)
  /-- TICK: the tick in progress ends. -/
  | tick
  /-- LOCK_HOLD_EXPIRY: the hold time reaches 0. -/
  | lockHoldExpiry
  /-- SCRUB_INTERVAL_EXPIRY: the interval reaches 0. -/
  | scrubIntervalExpiry
  /-- CHARACTER_RECEIVED: the receiver ends a character; bits 3k to 3k+2 of `samples` are the three samples of data bit
  k (k from 0 to 7), of the mark bit (k = 8) and of the stop bit (k = 9). -/
  | characterReceived (samples : BitVec 30)
  /-- BREAK: a break on SVC_RX; `sent` is how many characters of a response being sent have gone when it is cut. -/
  | breakReceived (sent : Nat)
  /-- PARSER_TAKES_ITEM. -/
  | parserTakesItem
  /-- FRAME_TIMER_EXPIRY. -/
  | frameTimerExpiry
  /-- RESPONSE_SENT: the last character of a response has been sent. -/
  | responseSent
  /-- IDENTIFY. -/
  | identify
  /-- READ_STATUS. -/
  | readStatus
  /-- READ_FAULTS. -/
  | readFaults
  /-- CLEAR_FAULTS(mask). -/
  | clearFaults (mask : BitVec 16)
  /-- RELEASE_MODE. -/
  | releaseMode
  /-- READ_RECORDS(index, count). -/
  | readRecords (index count : Byte)
  /-- CLOSE_RECORD(address). -/
  | closeRecord (address : BitVec 24)
  /-- CLEAR_RECORDS. -/
  | clearRecords
  /-- READ_SPARE_MAP. -/
  | readSpareMap
  /-- SPARE_LINE(line). -/
  | spareLine (line : BitVec 24)
  /-- SCRUB_START(mode). -/
  | scrubStart (mode : Byte)
  /-- SCRUB_STOP. -/
  | scrubStop
  /-- GET_SETTING(item). -/
  | getSetting (item : Byte)
  /-- SET_SETTING(item, value), of an item that has no row of its own. -/
  | setSetting (item : Byte) (value : Word)
  /-- SET_SETTING of REACTION_n, the row SET_REACTION. -/
  | setReaction (source : FaultSource) (value : Word)
  /-- INSPECT(location): the command raises its SERVICE request. -/
  | inspect (location : BitVec 24)
  /-- INSPECT_READ: the SERVICE grant ends. -/
  | inspectRead (upset : Upset)
  /-- RESET_PART. -/
  | resetPart
  /-- START_BIT_DETECTED: SVC_RX falls while the receiver is idle; the three samples of the start bit. -/
  | startBitDetected (samples : BitVec 3)
  /-- RECEIVER_RETURNS_TO_IDLE. -/
  | receiverReturnsToIdle
  deriving DecidableEq, Repr

end Sys2Proof
end

