-- ==== Sys2Proof/WellFormed.lean ====
section
/-! DEFINITION. Which commands can come about at all: the ranges their operands have in the spec that their types do
not already give. -/

namespace Sys2Proof

/-- The item codes of REACTION_1 to REACTION_9, which have a row of their own (R182). -/
def isReactionItem (item : Byte) : Bool := 0x21 ≤ item.toNat && item.toNat ≤ 0x29

namespace Instr

/-- A request carries 1 to 8 beats (R17); a response that a break cuts has sent at least one character (R172);
SET_SETTING's row is for the items without a row of their own. -/
def wellFormed : Instr → Bool
  | .readRequest _ count _ => 1 ≤ count && count ≤ 8
  | .writeRequest _ beats _ => 1 ≤ beats.length && beats.length ≤ 8
  | .lockedReadRequest _ count _ => 1 ≤ count && count ≤ 8
  | .lockedWriteRequest _ beats _ => 1 ≤ beats.length && beats.length ≤ 8
  | .breakReceived sent => 1 ≤ sent
  | .setSetting item _ => !isReactionItem item
  | .powerOn _ _ | .systemReset _ | .rstNRises | .resetCompletes | .fillBegins | .writeInsertion
  | .writeCompletion | .readBeatRetaken | .foregroundRead _ | .lockedReadDecode _ | .drainEnd _ | .prefetchRead _
  | .fillWrite | .migrationStart | .migrationRead _ | .migrationWrite | .migrationVerify _ | .scrubWord _ | .tick
  | .lockHoldExpiry | .scrubIntervalExpiry | .characterReceived _ | .parserTakesItem | .frameTimerExpiry
  | .responseSent | .identify | .readStatus | .readFaults | .clearFaults _ | .releaseMode | .readRecords _ _
  | .closeRecord _ | .clearRecords | .readSpareMap | .spareLine _ | .scrubStart _ | .scrubStop | .getSetting _
  | .setReaction _ _ | .inspect _ | .inspectRead _ | .resetPart | .startBitDetected _ | .receiverReturnsToIdle => true

end Instr

end Sys2Proof
end

