-- ==== Sys2Proof/Machine/State.lean ====
section
/-! DEFINITION. The state of the DX417: every register, buffer, table, timer and line the spec gives it, and the state
right after power-on (spec/00, Block overview; each type names its rule). -/

namespace Sys2Proof.Machine

/-! ### Nine of a kind and eight of a kind -/

/-- One value for each of the nine fault sources (R149). -/
structure PerSource (α : Type) where
  readUncorrectable       : α
  writeMergeFailed        : α
  backgroundUncorrectable : α
  recordOverflow          : α
  spareExhausted          : α
  migrationFailed         : α
  accessRefused           : α
  lockFault               : α
  corrected               : α
  deriving DecidableEq, Repr

/-- One value for each of the eight spare slots (R113). -/
structure PerSlot (α : Type) where
  s0 : α
  s1 : α
  s2 : α
  s3 : α
  s4 : α
  s5 : α
  s6 : α
  s7 : α
  deriving DecidableEq, Repr

/-! ### The array -/

/-- The external array (R1). `cells` lists locations with what they hold, by rising location and none equal to what an
unlisted location holds; a location below `filled` that is not listed holds zero, and one at or above it holds what
the SRAM held at the power-on numbered `epoch` (log 5, log 6). -/
structure Memory where
  cells  : List (Nat × StoredWord)
  filled : Nat
  epoch  : Nat
  deriving DecidableEq, Repr

/-! ### The Upstream Port (R17 to R21) -/

/-- The direction of a request (R17). -/
inductive RequestOp where
  | read
  | write
  deriving DecidableEq, Repr

/-- The fields of a request (R17). A READ carries no beat data. -/
structure Request where
  op         : RequestOp
  address    : BitVec 22
  count      : Nat
  beats      : List Beat
  locked     : Bool
  privileged : Bool
  deriving DecidableEq, Repr

/-- The states of the port (R21). -/
inductive PortState where
  | ready
  | readActive
  | writeSpaceWait
  | writeDrainWait
  | reset
  deriving DecidableEq, Repr

/-- When a write's completion is sent (spec/00, Posting mode). -/
inductive PostingMode where
  | posted
  | through
  deriving DecidableEq, Repr

/-- What the read beat in service waits for (R35, R80). -/
inductive BeatWait where
  /-- the end of the drain of the partial entry at this place of the queue -/
  | onEntry (place : Nat)
  /-- a FILLING read-ahead line -/
  | onLine (line : Nat)
  /-- the array: a FOREGROUND request -/
  | onArray
  /-- the wait has ended; the beat is to be taken again -/
  | over
  /-- a locked read: the three conditions of R80, then the array -/
  | onLock
  deriving DecidableEq, Repr

/-- The part of a transaction record that depends on the operation (R20). -/
inductive Progress where
  | read (nextBeat : Nat) (wait : BeatWait)
  | write (posting : PostingMode) (awaited : List Nat) (failed : Bool)
  deriving DecidableEq, Repr

/-- The transaction record (R20). `marks` is present under RANGE_POLICY QUIET and says for each beat whether it is in
range (R26). Awaited entries are named by their places in the queue, head 0. -/
structure Transaction where
  request  : Request
  marks    : Option (List Bool)
  progress : Progress
  deriving DecidableEq, Repr

/-- What the port sends (R19): for a read beat a data word with OK or ERROR, for a write one completion, OK or ERROR. -/
inductive UpResponse where
  | beat (data : Word) (error : Bool)
  | completion (error : Bool)
  deriving DecidableEq, Repr

/-! ### The Lock Unit (R78) -/

/-- The states of a lock. -/
inductive LockState where
  | held
  | broken
  deriving DecidableEq, Repr

/-- The lock record. `expiryDue` marks that the tick that ends the hold time has ended and the expiry is still to be
taken (log 2). -/
structure Lock where
  address   : Nat
  state     : LockState
  remaining : Option Nat
  expiryDue : Bool
  deriving DecidableEq, Repr

/-! ### The Posted Write Queue (R41) -/

/-- The kinds of entry. -/
inductive EntryKind where
  | busWrite
  | lockedWrite
  | repair
  | poison
  deriving DecidableEq, Repr

/-- The stages of an entry. -/
inductive Stage where
  | waiting
  | draining
  deriving DecidableEq, Repr

/-- One entry of the queue. -/
structure Entry where
  kind    : EntryKind
  address : Nat
  data    : Word
  lanes   : Lanes
  waiter  : Bool
  stage   : Stage
  deriving DecidableEq, Repr

/-! ### Decodes and detections (R9 to R13) -/

/-- Where an operation on a word was made: ORIGINAL, or SLOT n (R61). -/
inductive Location where
  | original
  | slot (n : Fin 8)
  deriving DecidableEq, Repr

/-- The reported syndrome: s, and p set for ODD (R9). -/
structure Syndrome where
  s   : BitVec 6
  odd : Bool
  deriving DecidableEq, Repr

/-- The bit a CORRECTED outcome names (R12). -/
inductive ErrorBit where
  | data (n : Fin 32)
  | check (k : Fin 7)
  deriving DecidableEq, Repr

/-- A decode outcome other than CLEAN, and the kind of a record. -/
inductive Detected where
  | corrected
  | uncorrectable
  | poisoned
  deriving DecidableEq, Repr

/-- The sources of a detection (R92). -/
inductive Source where
  | read
  | lockedRead
  | prefetch
  | merge
  | scrub
  | migration
  deriving DecidableEq, Repr

/-- What became of a detection (R92). -/
inductive Repair where
  | none
  | queued
  | dropped
  | notNeeded
  | byWrite
  | direct
  | moved
  deriving DecidableEq, Repr

/-! ### The read-ahead buffer (R69) -/

/-- A word slot that is present. -/
inductive RaSlot where
  | good (data : Word)
  | bad (data : Word) (kind : Detected) (syndrome : Option Syndrome) (location : Location)
  deriving DecidableEq, Repr

/-- An entry of the buffer. `earlier` says that its prefetch started before the other entry's; the word slots stand in
offset order, so the next word of a FILLING entry is their number. -/
inductive RaEntry where
  | empty
  | filling (line : Nat) (earlier : Bool) (slots : List RaSlot)
  | valid (line : Nat) (earlier : Bool) (slots : List RaSlot)
  deriving DecidableEq, Repr

/-- The two entries. -/
structure ReadAhead where
  e0 : RaEntry
  e1 : RaEntry
  deriving DecidableEq, Repr

/-! ### The arbiter (R61, R64, R67) -/

/-- The requester classes, highest first (R66). -/
inductive ReqClass where
  | foreground
  | drain
  | service
  | fill
  | migration
  | prefetch
  | scrub
  deriving DecidableEq, Repr

/-- The operation a grant covers, with what the grant fixed: the location the translation gave and, for a migration,
the word to write or to compare with. -/
inductive GrantOp where
  | foreground (address loc : Nat) (location : Location) (locked : Bool)
  | drain (loc : Nat) (location : Location) (dual : Option Nat)
  | service (loc : Nat)
  | fill (loc : Nat)
  | migrationRead (address loc : Nat) (location : Location)
  | migrationWrite (loc : Nat) (word : StoredWord)
  | migrationVerify (slot : Fin 8) (loc : Nat) (word : StoredWord)
  /-- `entry` is absent when the entry it was for has been invalidated, replaced or emptied (R75). -/
  | prefetch (entry : Option (Fin 2)) (address loc : Nat) (location : Location)
  | scrub (address loc : Nat) (location : Location)
  deriving DecidableEq, Repr

/-- The grant in progress. `orphan` says that a system reset has come since it was given (R8). -/
structure Grant where
  op     : GrantOp
  orphan : Bool
  deriving DecidableEq, Repr

/-- The three pass-over counts (R67). -/
structure PassOver where
  fill      : Nat
  migration : Nat
  scrub     : Nat
  deriving DecidableEq, Repr

/-! ### The Spare Map and the Migration Engine (R113, R115) -/

/-- What a migration was started by. -/
inductive Origin where
  | promotion
  | command
  deriving DecidableEq, Repr

/-- An entry of the Spare Map. -/
inductive SpareEntry where
  | free
  | copying (line cursor : Nat) (origin : Origin) (previous : Option (Fin 8))
  | active (line : Nat) (origin : Origin)
  | retired
  deriving DecidableEq, Repr

/-- The next grant of a copy step. -/
inductive CopyStep where
  | read
  | write
  | verify
  deriving DecidableEq, Repr

/-- The migration context while the engine is COPYING. -/
structure Migration where
  slot    : Fin 8
  source  : Location
  stepDue : CopyStep
  held    : Option StoredWord
  deriving DecidableEq, Repr

/-! ### The Error Record Table (R92, R93) -/

/-- The states of a record. -/
inductive RecordState where
  | opened
  | promotePending
  | migrating
  | spared
  deriving DecidableEq, Repr

/-- One record. -/
structure ErrRecord where
  address     : Nat
  location    : Location
  kind        : Detected
  bit         : Option ErrorBit
  syndrome    : Option Syndrome
  count       : Nat
  firstSource : Source
  lastSource  : Source
  repair      : Repair
  faulted     : Bool
  state       : RecordState
  deriving DecidableEq, Repr

/-! ### The Fill and Scrub Engines (R133, R139) -/

/-- The fill: FILLING or DONE, the watermark, and whether a fill is to begin once the array is free (R134). -/
structure Fill where
  filling   : Bool
  watermark : Nat
  due       : Bool
  deriving DecidableEq, Repr

/-- The mode of a scrub run. -/
inductive ScrubMode where
  | single
  | continuous
  deriving DecidableEq, Repr

/-- SWEEPING or WAITING, with the fields present in each. `expiryDue` is as in `Lock` (log 2). -/
inductive ScrubPhase where
  | sweeping (linesLeft : Nat)
  | waiting (intervalLeft : Nat) (expiryDue : Bool)
  deriving DecidableEq, Repr

/-- The scrub state: STOPPED, a run, or a run PAUSED from a phase. -/
inductive ScrubRun where
  | stopped
  | running (mode : ScrubMode) (phase : ScrubPhase)
  | paused (mode : ScrubMode) (phase : ScrubPhase)
  deriving DecidableEq, Repr

/-- The scrub record. -/
structure Scrub where
  run         : ScrubRun
  line        : Nat
  word        : Nat
  accumulator : Nat
  passes      : BitVec 16
  skipped     : Nat
  deriving DecidableEq, Repr

/-! ### The Fault Unit (R149) -/

/-- The reactions, in rising order (R151). -/
inductive Reaction where
  | ignore
  | note
  | alert
  | contain
  | halt
  deriving DecidableEq, Repr

/-- The device modes. -/
inductive DeviceMode where
  | normal
  | contained
  | halted
  deriving DecidableEq, Repr

/-- The record of one source: status (SET or CLEAR), occurrence count, effective reaction. -/
structure FaultRecord where
  set       : Bool
  count     : Nat
  effective : Reaction
  deriving DecidableEq, Repr

/-- The Fault Unit. `alert` is true while ALERT_N is asserted, that is, driven low. -/
structure FaultUnit where
  sources  : PerSource FaultRecord
  mode     : DeviceMode
  snapshot : PerSource Bool
  alert    : Bool
  deriving DecidableEq, Repr

/-! ### The settings (R182) -/

/-- What the range check does with a request beyond V (R25). -/
inductive RangePolicy where
  | error
  | quiet
  deriving DecidableEq, Repr

/-- The settings, owned by the Command Unit. -/
structure Settings where
  posting              : PostingMode
  rangePolicy          : RangePolicy
  guardLo              : Word
  guardHi              : Word
  readAhead            : Bool
  lockLimit            : Nat
  promoteThreshold     : Nat
  spareOnUncorrectable : Bool
  escalate             : BitVec 9
  scrubStartLine       : Nat
  scrubEndLine         : Nat
  scrubBlock           : Nat
  pacerBase            : Nat
  pacerFraction        : Nat
  tickDivisor          : Nat
  linkDivisor          : Nat
  linkFraction         : Nat
  reactions            : PerSource Reaction
  deriving DecidableEq, Repr

/-! ### The service link (R163 to R174) -/

/-- The timing of the link: LINK_DIVISOR and LINK_FRACTION as a unit uses them (R164). -/
structure Timing where
  divisor  : Nat
  fraction : Nat
  deriving DecidableEq, Repr

/-- The receiver (R165). -/
inductive Receiver where
  /-- after power-on: out of idle until the line has been high for a full character time -/
  | powerUp
  /-- after a break: out of idle until the line has returned high -/
  | afterBreak
  | idle
  /-- in a character, with its noise flag so far -/
  | receiving (noise : Bool)
  deriving DecidableEq, Repr

/-- An item of the receive FIFO (R166). -/
inductive FifoItem where
  | character (byte : Byte) (mark noise : Bool)
  | framingError
  | overrun
  deriving DecidableEq, Repr

/-- Which field of the frame the next character fills; `complete` when the frame waits for the Command Unit (R170). -/
inductive FramePosition where
  | command
  | length
  | payload
  | checksum
  | complete
  deriving DecidableEq, Repr

/-- The frame buffer (spec/10, The parser). -/
structure Frame where
  broadcast : Bool
  command   : Byte
  length    : Nat
  payload   : List Byte
  checksum  : Byte
  position  : FramePosition
  noise     : Bool
  deriving DecidableEq, Repr

/-- What the part does to SVC_TX for one bit (R163): it drives the line low for a low bit and releases it for a high
one, the pull-up then supplying the high level. -/
inductive Drive where
  | low
  | released
  deriving DecidableEq, Repr

/-- SVC_TX: released, so that the line rests high (R163, R174), or driven bit by bit with a response that goes out. -/
inductive SvcTx where
  | released
  | sending
  deriving DecidableEq, Repr

/-- The parser. In RESPOND it holds the characters of the response and whether the command was RESET_PART. -/
inductive Parser where
  | hunt
  | collect
  | execute
  | respond (characters : List Byte) (resetPart : Bool)
  deriving DecidableEq, Repr

/-- The link. `frameTimer` is absent while the frame timer does not run, and otherwise its carry accumulator. -/
structure Link where
  receiver   : Receiver
  rxAcc      : Nat
  txAcc      : Nat
  rxTiming   : Timing
  inUse      : Timing
  fifo       : List FifoItem
  overrun    : Bool
  parser     : Parser
  frame      : Frame
  frameTimer : Option Nat
  svcTx      : SvcTx
  deriving DecidableEq, Repr

/-! ### The Command Unit (R175) -/

/-- A service command with its arguments, as the parser hands it over. -/
inductive SvcCommand where
  | identify
  | readStatus
  | readFaults
  | clearFaults (mask : BitVec 16)
  | releaseMode
  | readRecords (index count : Byte)
  | closeRecord (address : BitVec 24)
  | clearRecords
  | readSpareMap
  | spareLine (line : BitVec 24)
  | scrubStart (mode : Byte)
  | scrubStop
  | getSetting (item : Byte)
  | setSetting (item : Byte) (value : Word)
  | inspect (location : BitVec 24)
  | resetPart
  deriving DecidableEq, Repr

/-- The command being carried out. `withdrawn`: a break has withdrawn its response (R172). `waiting`: it waits for a
grant (an INSPECT for its SERVICE grant, a SCRUB_STOP for the end of a SCRUB grant). -/
structure Execution where
  command   : SvcCommand
  broadcast : Bool
  withdrawn : Bool
  waiting   : Bool
  deriving DecidableEq, Repr

/-! ### The whole -/

/-- The state of the part, the array behind it, the lines around it, and the commands that wait. -/
structure State where
  rstN            : Bool
  straps          : Straps
  mem             : Memory
  port            : PortState
  txn             : Option Transaction
  held            : Option Request
  lock            : Option Lock
  queue           : List Entry
  readAhead       : ReadAhead
  grant           : Option Grant
  passOver        : PassOver
  spareMap        : PerSlot SpareEntry
  migration       : Option Migration
  records         : List ErrRecord
  fill            : Fill
  scrub           : Scrub
  faults          : FaultUnit
  settings        : Settings
  link            : Link
  executing       : Option Execution
  tickLength      : Nat
  resetInProgress : Bool
  resetDue        : Bool
  upSent          : List UpResponse
  svcSent         : List (List Drive)
  pending         : List Instr
  deriving DecidableEq, Repr

/-- No step of the part faults: the spec has no condition that stops it (R150, R152: a fault source is recorded and
the part goes on). -/
inductive Fault
  deriving DecidableEq, Repr

/-- Why a step has no meaning. -/
inductive Refusal where
  /-- a command the model does not model yet; raised by exec's refused arms alone (there is none); safe -/
  | notModelled (mnemonic : String)
  deriving DecidableEq, Repr

/-! ### Power-on -/

/-- The default reactions (R150). -/
def defaultReactions : PerSource Reaction :=
  { readUncorrectable := .alert, writeMergeFailed := .alert, backgroundUncorrectable := .note,
    recordOverflow := .note, spareExhausted := .alert, migrationFailed := .note, accessRefused := .alert,
    lockFault := .note, corrected := .ignore }

/-- The reset values of the settings (R182); SCRUB_END_LINE is V/8 - 1. -/
def Settings.initial (straps : Straps) : Settings :=
  { posting := .posted, rangePolicy := .error, guardLo := 0, guardHi := 0, readAhead := false, lockLimit := 16,
    promoteThreshold := 3, spareOnUncorrectable := false, escalate := 0, scrubStartLine := 0,
    scrubEndLine := straps.visibleLines - 1, scrubBlock := 16, pacerBase := 1000, pacerFraction := 0,
    tickDivisor := 32, linkDivisor := 217, linkFraction := 0, reactions := defaultReactions }

/-- A source that is CLEAR with count 0 and this effective reaction (R160, R161). -/
def FaultRecord.cleared (r : Reaction) : FaultRecord := ⟨false, 0, r⟩

/-- The Fault Unit at power-on (R161). -/
def FaultUnit.initial : FaultUnit :=
  { sources :=
      { readUncorrectable := .cleared .alert, writeMergeFailed := .cleared .alert,
        backgroundUncorrectable := .cleared .note, recordOverflow := .cleared .note,
        spareExhausted := .cleared .alert, migrationFailed := .cleared .note, accessRefused := .cleared .alert,
        lockFault := .cleared .note, corrected := .cleared .ignore },
    mode := .normal,
    snapshot := ⟨false, false, false, false, false, false, false, false, false⟩,
    alert := false }

/-- An empty frame buffer. -/
def Frame.empty : Frame := ⟨false, 0, 0, [], 0, .command, false⟩

/-- The link at power-on (R174). -/
def Link.initial : Link :=
  { receiver := .powerUp, rxAcc := 0, txAcc := 0, rxTiming := ⟨217, 0⟩, inUse := ⟨217, 0⟩, fifo := [],
    overrun := false, parser := .hunt, frame := .empty, frameTimer := none, svcTx := .released }

/-- The straps and the level of RST_N that State.reset takes (log 7). -/
def resetStraps : Straps := ⟨0, 0, false⟩

/-- The part right after power-on with the straps of log 7 and RST_N high: the fill is FILLING from location 0 and its
request has been granted (R64, R133), and the port is READY because the fill has started (R39). -/
def State.reset : State :=
  { rstN := true, straps := resetStraps, mem := ⟨[], 0, 0⟩, port := .ready, txn := none, held := none,
    lock := none, queue := [], readAhead := ⟨.empty, .empty⟩, grant := some ⟨.fill 0, false⟩,
    passOver := ⟨0, 0, 0⟩, spareMap := ⟨.free, .free, .free, .free, .free, .free, .free, .free⟩, migration := none,
    records := [], fill := ⟨true, 0, false⟩, scrub := ⟨.stopped, 0, 0, 0, 0, 0⟩, faults := .initial,
    settings := .initial resetStraps, link := .initial, executing := none, tickLength := 32,
    resetInProgress := false, resetDue := false, upSent := [], svcSent := [], pending := [] }

end Sys2Proof.Machine
end

