-- ==== Sys2Proof/Machine/Operands.lean ====
section
/-! DEFINITION. The forms operands come in: values held per source and per slot, beats and lane sets (spec/02, R17, R18,
R26; spec/03, R43), samples and characters of the link (spec/10, R163 to R165), bytes of arguments and payloads (R175),
and the carry rule of the pacer and the link (R143, R164). -/

namespace Sys2Proof

/-- Code less 1 of a source: its place in ESCALATE and in the masks (R149, R177). -/
def FaultSource.place : FaultSource → Nat
  | .readUncorrectable => 0
  | .writeMergeFailed => 1
  | .backgroundUncorrectable => 2
  | .recordOverflow => 3
  | .spareExhausted => 4
  | .migrationFailed => 5
  | .accessRefused => 6
  | .lockFault => 7
  | .corrected => 8

/-- The nine sources in code order (R150). -/
def FaultSource.all : List FaultSource :=
  [.readUncorrectable, .writeMergeFailed, .backgroundUncorrectable, .recordOverflow, .spareExhausted,
    .migrationFailed, .accessRefused, .lockFault, .corrected]

/-- The item code of REACTION_n: 0x21 to 0x29 (R182). -/
def FaultSource.item (src : FaultSource) : Byte := BitVec.ofNat 8 (0x21 + src.place)

end Sys2Proof

namespace Sys2Proof.Machine

/-! ### Per source, per slot -/

/-- The value for one source. -/
def PerSource.get {α : Type} (p : PerSource α) : FaultSource → α
  | .readUncorrectable => p.readUncorrectable
  | .writeMergeFailed => p.writeMergeFailed
  | .backgroundUncorrectable => p.backgroundUncorrectable
  | .recordOverflow => p.recordOverflow
  | .spareExhausted => p.spareExhausted
  | .migrationFailed => p.migrationFailed
  | .accessRefused => p.accessRefused
  | .lockFault => p.lockFault
  | .corrected => p.corrected

/-- The values, each given from its source. -/
def PerSource.make {α : Type} (f : FaultSource → α) : PerSource α :=
  { readUncorrectable := f .readUncorrectable, writeMergeFailed := f .writeMergeFailed,
    backgroundUncorrectable := f .backgroundUncorrectable, recordOverflow := f .recordOverflow,
    spareExhausted := f .spareExhausted, migrationFailed := f .migrationFailed, accessRefused := f .accessRefused,
    lockFault := f .lockFault, corrected := f .corrected }

/-- The values with one source's replaced. -/
def PerSource.set {α : Type} (p : PerSource α) (src : FaultSource) (v : α) : PerSource α :=
  .make fun x => if x = src then v else p.get x

/-- The eight slots, lowest first. -/
def allSlots : List (Fin 8) := [0, 1, 2, 3, 4, 5, 6, 7]

/-- The value for one slot. -/
def PerSlot.get {α : Type} (p : PerSlot α) (n : Fin 8) : α :=
  match n.val with
  | 0 => p.s0
  | 1 => p.s1
  | 2 => p.s2
  | 3 => p.s3
  | 4 => p.s4
  | 5 => p.s5
  | 6 => p.s6
  | _ => p.s7

/-- The values, each given from its slot. -/
def PerSlot.make {α : Type} (f : Fin 8 → α) : PerSlot α :=
  ⟨f 0, f 1, f 2, f 3, f 4, f 5, f 6, f 7⟩

/-- The values with one slot's replaced. -/
def PerSlot.set {α : Type} (p : PerSlot α) (n : Fin 8) (v : α) : PerSlot α :=
  .make fun k => if k = n then v else p.get k

/-! ### Requests, beats and lanes -/

/-- The READ request of a row's operands. -/
def readOf (address : BitVec 22) (count : Nat) (locked privileged : Bool) : Request :=
  ⟨.read, address, count, [], locked, privileged⟩

/-- The WRITE request of a row's operands. -/
def writeOf (address : BitVec 22) (beats : List Beat) (locked privileged : Bool) : Request :=
  ⟨.write, address, beats.length, beats, locked, privileged⟩

/-- The word address of beat i, formed without wrapping (R18). -/
def Request.beatAddress (r : Request) (i : Nat) : Nat := r.address.toNat + i

/-- For each beat, whether it lies below V (R25, R26). -/
def Request.inRange (r : Request) (visible : Nat) : List Bool :=
  (List.range r.count).map fun i => decide (r.beatAddress i < visible)

/-- Whether beat i is in range by the beat marks; without marks every beat is (R20, R26). -/
def markedInRange (marks : Option (List Bool)) (i : Nat) : Bool :=
  match marks with
  | none => true
  | some l => l.getD i false

/-- The beats of a write with their word addresses, the first of them beat i. -/
def addressed (r : Request) (marks : Option (List Bool)) : Nat → List Beat → List (Nat × Beat)
  | _, [] => []
  | i, b :: bs =>
    if markedInRange marks i && b.lanes != 0 then (r.beatAddress i, b) :: addressed r marks (i + 1) bs
    else addressed r marks (i + 1) bs

/-- The queued beats: in range and enabling at least one lane (R29). -/
def queuedBeats (r : Request) (marks : Option (List Bool)) : List (Nat × Beat) := addressed r marks 0 r.beats

/-- The data bits of a lane set: lane k is data bits 8k to 8k+7. -/
def laneMask (lanes : Lanes) : Word :=
  (if lanes.getLsbD 0 then 0x000000FF else 0) ||| (if lanes.getLsbD 1 then 0x0000FF00 else 0) |||
    (if lanes.getLsbD 2 then 0x00FF0000 else 0) ||| (if lanes.getLsbD 3 then 0xFF000000 else 0)

/-- `new` over `old` in the enabled lanes (R15, R43). -/
def mergeLanes (lanes : Lanes) (new old : Word) : Word :=
  (old &&& ~~~laneMask lanes) ||| (new &&& laneMask lanes)

/-- The line of a word address. -/
def lineOf (address : Nat) : Nat := address / 8

/-! ### Bytes -/

/-- `n` bytes of a value, least significant first (R175). -/
def leBytes : Nat → Nat → List Byte
  | 0, _ => []
  | n + 1, v => BitVec.ofNat 8 v :: leBytes n (v / 256)

/-- The number bytes spell, least significant first (R175). -/
def leNat : List Byte → Nat
  | [] => 0
  | b :: bs => b.toNat + 256 * leNat bs

/-- The sum of bytes modulo 256 (R170, R171). -/
def byteSum (bs : List Byte) : Byte := bs.foldl (· + ·) 0

/-! ### The carry rule -/

/-- One length and the accumulator after it: base, or base + 1 where accumulator and fraction reach 8 (R143, R164). -/
def carry (base fraction acc : Nat) : Nat × Nat :=
  if acc + fraction ≥ 8 then (base + 1, acc + fraction - 8) else (base, acc + fraction)

/-- The sum of `n` consecutive lengths and the accumulator after them. -/
def carries (base fraction : Nat) : Nat → Nat → Nat × Nat
  | 0, acc => (0, acc)
  | n + 1, acc =>
    ((carry base fraction acc).1 + (carries base fraction n (carry base fraction acc).2).1,
      (carries base fraction n (carry base fraction acc).2).2)

/-- The accumulator a unit holds after `bits` bit times that it began at 0 (R164). -/
def accAfter (t : Timing) (bits : Nat) : Nat := (carries t.divisor t.fraction bits 0).2

/-! ### Samples -/

/-- The value of a bit: the majority of its three samples (R165). -/
def majority (x : BitVec 3) : Bool :=
  (x.getLsbD 0 && x.getLsbD 1) || (x.getLsbD 0 && x.getLsbD 2) || (x.getLsbD 1 && x.getLsbD 2)

/-- Whether the three samples of a bit disagree (R165). -/
def disagree (x : BitVec 3) : Bool := x != 0 && x != 7

/-- The samples of bit k after the start bit: data 0 to 7, the mark, the stop. -/
def sampleOf (samples : BitVec 30) (k : Nat) : BitVec 3 := samples.extractLsb' (3 * k) 3

/-- The byte of a character, least significant bit first (R163). -/
def byteOf (samples : BitVec 30) : Byte :=
  (List.range 8).foldl (fun b k => if majority (sampleOf samples k) then b ||| BitVec.ofNat 8 (2 ^ k) else b) 0

/-- The mark bit of a character. -/
def markOf (samples : BitVec 30) : Bool := majority (sampleOf samples 8)

/-- The stop bit of a character. -/
def stopOf (samples : BitVec 30) : Bool := majority (sampleOf samples 9)

/-- Whether the samples of any bit after the start bit disagree. -/
def noisy (samples : BitVec 30) : Bool := (List.range 10).any fun k => disagree (sampleOf samples k)

/-- Whether data, mark and stop are all low: a framing error is then decided one bit time later (R165). -/
def allLow (samples : BitVec 30) : Bool := byteOf samples == 0 && !markOf samples && !stopOf samples

/-- The samples of a character sent without noise: each bit's level three times, the stop bit high (R163). -/
def cleanSamples (byte : Byte) (mark : Bool) : BitVec 30 :=
  (List.range 8).foldl (fun x k => if byte.getLsbD k then x ||| BitVec.ofNat 30 (7 * 2 ^ (3 * k)) else x)
    ((if mark then BitVec.ofNat 30 (7 * 2 ^ 24) else 0) ||| BitVec.ofNat 30 (7 * 2 ^ 27))

/-- What the part does to SVC_TX for a bit of this level (R163). -/
def driveOf (level : Bool) : Drive := if level then .released else .low

/-- The eleven bits of a character the part sends: start low, the byte least significant bit first, mark low, stop high
(R163). -/
def sentBits (byte : Byte) : List Drive :=
  ([false] ++ ((List.range 8).map fun k => byte.getLsbD k) ++ [false, true]).map driveOf

end Sys2Proof.Machine
end

