-- ==== Sys2Proof/Machine/Code.lean ====
section
/-! DEFINITION. The Code Unit: the check code, the encoded and the marked write, and the decode (spec/01, R3 to R13). It
holds no state. -/

namespace Sys2Proof.Machine

/-- The codeword positions of d0 to d31 (R3). -/
def dataPositions : List Nat :=
  [3, 5, 6, 7, 9, 10, 11, 12, 13, 14, 15, 17, 18, 19, 20, 21, 22, 23, 24, 25, 26, 27, 28, 29, 30, 31,
    33, 34, 35, 36, 37, 38]

/-- The exclusive-or of the position numbers of the set data bits, from bit i on. -/
def xorPositions (d : Word) : Nat → List Nat → BitVec 6
  | _, [] => 0
  | i, p :: ps => (if d.getLsbD i then BitVec.ofNat 6 p else 0) ^^^ xorPositions d (i + 1) ps

/-- c0 to c5 of a data word: ck is the exclusive-or of the data bits whose position number has bit k set (R4). -/
def lowCode (d : Word) : BitVec 6 := xorPositions d 0 dataPositions

/-- Whether the number of ones is odd. -/
def oddOnes {w : Nat} (x : BitVec w) : Bool := (List.range w).foldl (fun p i => p ^^ x.getLsbD i) false

/-- The check code of a data word; c6 makes the ones among positions 1 to 38 and c6 even (R4, R5, R6). -/
def checkCode (d : Word) : CheckCode :=
  (if oddOnes d ^^ oddOnes (lowCode d) then 0x40#7 else 0) ||| (lowCode d).setWidth 7

/-- An encoded write stores the data, its code and a clear mark (R7). -/
def encoded (d : Word) : StoredWord := ⟨d, checkCode d, false⟩

/-- A marked write stores data and code as read with the mark set (R7). -/
def marked (w : StoredWord) : StoredWord := ⟨w.data, w.code, true⟩

/-- The syndrome number and the parity result of a stored word (R9). -/
def syndromeOf (w : StoredWord) : Syndrome :=
  ⟨lowCode w.data ^^^ w.code.setWidth 6, oddOnes w.data ^^ oddOnes w.code⟩

/-- The outcomes of a decode (R11). -/
inductive DecodeOutcome where
  | clean
  | corrected
  | uncorrectable
  | poisoned
  deriving DecidableEq, Repr

/-- The result a decode hands over (R13). -/
structure Decoded where
  outcome  : DecodeOutcome
  data     : Word
  code     : CheckCode
  syndrome : Option Syndrome
  bit      : Option ErrorBit
  deriving DecidableEq, Repr

/-- The data bit on a position, if it holds one (R3). -/
def dataBitAt (position : Nat) : Option (Fin 32) :=
  match dataPositions.idxOf? position with
  | some i => if h : i < 32 then some ⟨i, h⟩ else none
  | none => none

/-- The bit a non-zero or zero syndrome with an odd parity result names, if it names one (R11, R12). -/
def namedBit (s : Nat) : Option ErrorBit :=
  match s with
  | 0 => some (.check 6)
  | 1 => some (.check 0)
  | 2 => some (.check 1)
  | 4 => some (.check 2)
  | 8 => some (.check 3)
  | 16 => some (.check 4)
  | 32 => some (.check 5)
  | _ => (dataBitAt s).map .data

/-- The data with the named bit restored (R12). -/
def restored (d : Word) : ErrorBit → Word
  | .data n => d ^^^ BitVec.ofNat 32 (2 ^ n.val)
  | .check _ => d

/-- The decode of a stored word as read (R10 to R13). -/
def decode (w : StoredWord) : Decoded :=
  if w.mark then ⟨.poisoned, w.data, w.code, none, none⟩
  else if (syndromeOf w).odd then
    match namedBit (syndromeOf w).s.toNat with
    | some b => ⟨.corrected, restored w.data b, w.code, some (syndromeOf w), some b⟩
    | none => ⟨.uncorrectable, w.data, w.code, some (syndromeOf w), none⟩
  else if (syndromeOf w).s = 0 then ⟨.clean, w.data, w.code, none, none⟩
  else ⟨.uncorrectable, w.data, w.code, some (syndromeOf w), none⟩

/-- The kind of detection an outcome makes; CLEAN makes none (spec/00, Detection). -/
def DecodeOutcome.detected : DecodeOutcome → Option Detected
  | .clean => none
  | .corrected => some .corrected
  | .uncorrectable => some .uncorrectable
  | .poisoned => some .poisoned

end Sys2Proof.Machine
end

