-- ==== Sys2Proof/Machine/Flags.lean ====
section
/-! DEFINITION. The Fault Unit: occurrences, escalation, the device mode, ALERT_N, clearing and the reset snapshot
(spec/09, R149 to R161). -/

namespace Sys2Proof.Machine

/-- The rank of a reaction (R151). -/
def Reaction.rank : Reaction → Nat
  | .ignore => 0
  | .note => 1
  | .alert => 2
  | .contain => 3
  | .halt => 4

/-- The reaction of a rank, as the REACTION items encode it (R182). -/
def Reaction.ofRank (n : Nat) : Option Reaction :=
  match n with
  | 0 => some .ignore
  | 1 => some .note
  | 2 => some .alert
  | 3 => some .contain
  | 4 => some .halt
  | _ => none

/-- One level up; HALT stays HALT (R153). -/
def Reaction.raised : Reaction → Reaction
  | .ignore => .note
  | .note => .alert
  | .alert => .contain
  | .contain => .halt
  | .halt => .halt

/-- The rank of a device mode, which is also its encoding (R185). -/
def DeviceMode.rank : DeviceMode → Nat
  | .normal => 0
  | .contained => 1
  | .halted => 2

/-- The higher of two modes. -/
def DeviceMode.higher (a b : DeviceMode) : DeviceMode := if a.rank < b.rank then b else a

/-- The mode a source demands (R151, R155). -/
def FaultRecord.demand (r : FaultRecord) : DeviceMode :=
  if r.set then
    match r.effective with
    | .contain => .contained
    | .halt => .halted
    | .ignore | .note | .alert => .normal
  else .normal

/-- Whether a source asserts ALERT_N (R151, R157). -/
def FaultRecord.alerts (r : FaultRecord) : Bool := r.set && 2 ≤ r.effective.rank

namespace FaultUnit

/-- The highest mode demanded by any source (R155). -/
def demanded (fu : FaultUnit) : DeviceMode :=
  FaultSource.all.foldl (fun m src => m.higher (fu.sources.get src).demand) .normal

/-- Whether some source asserts ALERT_N (R157). -/
def alerting (fu : FaultUnit) : Bool := FaultSource.all.any fun src => (fu.sources.get src).alerts

/-- The device mode brought up to the demanded level and ALERT_N given its value (R155, R157). -/
def refreshed (fu : FaultUnit) : FaultUnit :=
  { fu with mode := fu.mode.higher fu.demanded, alert := fu.alerting }

/-- A recorded occurrence: SET, one more counted up to 15, and escalated where the source was SET and its escalate
enable is on; a source that was CLEAR takes the configured reaction (R152, R153). -/
def recorded (r : FaultRecord) (configured : Reaction) (escalate : Bool) : FaultRecord :=
  { set := true,
    count := min (r.count + 1) 15,
    effective := if r.set then (if escalate then r.effective.raised else r.effective) else configured }

/-- One occurrence of a source (R152). -/
def occur (fu : FaultUnit) (src : FaultSource) (configured : Reaction) (escalate : Bool) : FaultUnit :=
  if configured = .ignore ∧ (fu.sources.get src).set = false then fu
  else refreshed { fu with sources := fu.sources.set src (recorded (fu.sources.get src) configured escalate) }

/-- The source's effective reaction after its configured reaction has become `r` (R154). -/
def reacted (f : FaultRecord) (r : Reaction) : FaultRecord :=
  if f.set then (if f.effective.rank < r.rank then { f with effective := r } else f) else { f with effective := r }

/-- A SET_SETTING of REACTION_n at the Fault Unit (R154). -/
def react (fu : FaultUnit) (src : FaultSource) (r : Reaction) : FaultUnit :=
  refreshed { fu with sources := fu.sources.set src (reacted (fu.sources.get src) r) }

/-- CLEAR_FAULTS of the selected sources (R158). The device mode is not changed. -/
def clear (fu : FaultUnit) (configured : PerSource Reaction) (mask : BitVec 16) : FaultUnit :=
  let cleared : FaultUnit :=
    { fu with
      sources := .make fun src =>
        if mask.getLsbD src.place then .cleared (configured.get src) else fu.sources.get src }
  { cleared with
    alert := cleared.alerting,
    snapshot := if FaultSource.all.all (fun src => mask.getLsbD src.place) then .make fun _ => false else fu.snapshot }

/-- RELEASE_MODE (R156). -/
def release (fu : FaultUnit) : FaultUnit := { fu with mode := fu.demanded }

/-- The Fault Unit at a system reset (R160). -/
def systemReset (fu : FaultUnit) (configured : PerSource Reaction) : FaultUnit :=
  { sources := .make fun src => .cleared (configured.get src),
    mode := .normal,
    snapshot := .make fun src => fu.snapshot.get src || (fu.sources.get src).set,
    alert := false }

end FaultUnit

end Sys2Proof.Machine
end

