-- ==== Sys2Proof/Machine/Ops.lean ====
section
/-! DEFINITION. The shared operations: reading and writing the array (spec/01, R7, R8), translation and the fill
watermark (spec/04, R60 to R62), an occurrence at the Fault Unit with the scrub's pause (spec/09, R152; spec/08, R146),
an arrival at the Error Record Table (spec/06, R94 to R107), and the responses of the port (spec/02, R19). -/

namespace Sys2Proof.Machine

/-! ### The array -/

/-- What a location that is not listed holds (log 5, log 6). -/
def Memory.base (m : Memory) (loc : Nat) : StoredWord :=
  if loc < m.filled then .zero else .ofLines (Config.sramAtPowerOn m.epoch loc)

/-- The word listed for a location. -/
def listed : List (Nat × StoredWord) → Nat → Option StoredWord
  | [], _ => none
  | c :: cs, loc => if c.1 = loc then some c.2 else listed cs loc

/-- The list without a location. -/
def unlist : List (Nat × StoredWord) → Nat → List (Nat × StoredWord)
  | [], _ => []
  | c :: cs, loc => if c.1 = loc then cs else c :: unlist cs loc

/-- The list with a location holding a word, by rising location. -/
def enlist : List (Nat × StoredWord) → Nat → StoredWord → List (Nat × StoredWord)
  | [], loc, w => [(loc, w)]
  | c :: cs, loc, w =>
    if c.1 = loc then (loc, w) :: cs else if loc < c.1 then (loc, w) :: c :: cs else c :: enlist cs loc w

/-- The stored word at a location. -/
def Memory.read (m : Memory) (loc : Nat) : StoredWord := (listed m.cells loc).getD (m.base loc)

/-- The array with a location holding a word. -/
def Memory.write (m : Memory) (loc : Nat) (w : StoredWord) : Memory :=
  { m with cells := if w = m.base loc then unlist m.cells loc else enlist m.cells loc w }

/-- The array after the fill has written zero at a location (R135); the first location with power-on contents moves on
when it is the one written. -/
def Memory.fillAt (m : Memory) (loc : Nat) : Memory :=
  if loc = m.filled then { m with cells := unlist m.cells loc, filled := loc + 1 } else m.write loc .zero

/-- The array after the SRAM has changed bits of a location (log 4). -/
def Memory.disturbed (m : Memory) (loc : Nat) (u : Upset) : Memory :=
  if u = .zero then m else m.write loc ((m.read loc).flip u)

/-- Whether the locations rise strictly. -/
def rising : List (Nat × StoredWord) → Bool
  | [] => true
  | [_] => true
  | c :: d :: cs => decide (c.1 < d.1) && rising (d :: cs)

/-- The canonical form: rising locations, none listed with what an unlisted location holds. -/
def Memory.wf (m : Memory) : Bool := rising m.cells && m.cells.all fun c => decide (c.2 ≠ m.base c.1)

/-! ### Translation -/

/-- The slot ACTIVE for a line, if there is one. -/
def activeSlot (map : PerSlot SpareEntry) (line : Nat) : Option (Fin 8) :=
  allSlots.find? fun n =>
    match map.get n with
    | .active l _ => l == line
    | _ => false

/-- The slot COPYING a line and its copy cursor, if there is one. -/
def copyingSlot (map : PerSlot SpareEntry) (line : Nat) : Option (Fin 8 × Nat) :=
  allSlots.findSome? fun n =>
    match map.get n with
    | .copying l cursor _ _ => if l = line then some (n, cursor) else none
    | _ => none

/-- The lowest-numbered FREE slot, if there is one. -/
def freeSlot (map : PerSlot SpareEntry) : Option (Fin 8) := allSlots.find? fun n => decide (map.get n = .free)

/-- The location of a word address and its location kind (R60, R61). -/
def State.translate (s : State) (address : Nat) : Nat × Location :=
  match activeSlot s.spareMap (lineOf address) with
  | some n => (s.straps.slotBase n + address % 8, .slot n)
  | none => (address, .original)

/-- Whether a location is at or above the watermark of a running fill (R62). -/
def State.unfilled (s : State) (loc : Nat) : Bool := s.fill.filling && decide (s.fill.watermark ≤ loc)

/-- Whether a line is in COPYING. -/
def State.copying (s : State) (line : Nat) : Bool := (copyingSlot s.spareMap line).isSome

/-! ### Occurrences -/

/-- A phase as a pause leaves it: an interval keeps what is left of it (R146). -/
def ScrubPhase.rested : ScrubPhase → ScrubPhase
  | .sweeping n => .sweeping n
  | .waiting n _ => .waiting n false

/-- A running scrub becomes PAUSED from its phase (R146). -/
def Scrub.pause (sc : Scrub) : Scrub :=
  match sc.run with
  | .running m p => { sc with run := .paused m p.rested }
  | _ => sc

/-- A PAUSED scrub returns to the state it was paused from (R146). -/
def Scrub.resume (sc : Scrub) : Scrub :=
  match sc.run with
  | .paused m p => { sc with run := .running m p }
  | _ => sc

/-- Whether a SCRUB grant of the present run is in progress. -/
def State.scrubGranted (s : State) : Bool :=
  match s.grant with
  | some ⟨.scrub _ _ _, orphan⟩ => !orphan
  | _ => false

/-- Whether any SCRUB grant is in progress, be it of the present run or left to finish by a system reset (R179). -/
def State.scrubInProgress (s : State) : Bool :=
  match s.grant with
  | some ⟨.scrub _ _ _, _⟩ => true
  | _ => false

/-- In HALTED the scrub pauses, unless a SCRUB grant in progress is still to end (R146). -/
def State.pauseIfHalted (s : State) : State :=
  { s with scrub := if s.faults.mode = .halted ∧ s.scrubGranted = false then s.scrub.pause else s.scrub }

/-- One occurrence of a fault source (R152), with what a rise to HALTED does to the scrub (R155). -/
def State.occur (s : State) (src : FaultSource) : State :=
  { s with
    faults := s.faults.occur src (s.settings.reactions.get src) (s.settings.escalate.getLsbD src.place) }.pauseIfHalted

/-- An occurrence where there is one to raise. -/
def State.occurOpt (s : State) : Option FaultSource → State
  | none => s
  | some src => s.occur src

/-! ### Arrivals at the Error Record Table -/

/-- A detection handed to the table (R94). -/
structure Arrival where
  address  : Nat
  location : Location
  kind     : Detected
  bit      : Option ErrorBit
  syndrome : Option Syndrome
  source   : Source
  repair   : Repair
  faulted  : Bool
  deriving DecidableEq, Repr

/-- The rank of a kind (R97). -/
def Detected.rank : Detected → Nat
  | .corrected => 0
  | .uncorrectable => 1
  | .poisoned => 2

/-- The more severe of two kinds (R97). -/
def Detected.worse (a b : Detected) : Detected := if a.rank < b.rank then b else a

namespace ErrRecord

/-- A record made, or reset in place, from an arrival (R98, R99). -/
def fresh (a : Arrival) : ErrRecord :=
  { address := a.address, location := a.location, kind := a.kind, bit := a.bit, syndrome := a.syndrome, count := 1,
    firstSource := a.source, lastSource := a.source, repair := a.repair, faulted := a.faulted, state := .opened }

/-- A record updated by an arrival from its own location (R96, R97). -/
def updated (r : ErrRecord) (a : Arrival) : ErrRecord :=
  { r with
    count := min (r.count + 1) 255,
    kind := r.kind.worse a.kind,
    bit := if r.kind.worse a.kind = .corrected then a.bit else none,
    syndrome := if r.kind.worse a.kind = .poisoned then none else a.syndrome,
    lastSource := a.source,
    repair := a.repair,
    faulted := r.faulted || a.faulted }

/-- Whether a record can be evicted (R100). -/
def evictable (r : ErrRecord) : Bool := r.kind = .corrected && (r.state = .opened || r.state = .spared)

/-- Whether a record is pinned (R102). -/
def pinned (r : ErrRecord) : Bool := r.state = .promotePending || r.state = .migrating

/-- Whether a record an arrival has left meets the promotion conditions (R103, R104). -/
def promotable (r : ErrRecord) (st : Settings) : Bool :=
  r.state = .opened &&
    ((r.kind = .corrected && st.promoteThreshold ≤ r.count) || (st.spareOnUncorrectable && r.kind ≠ .corrected))

end ErrRecord

/-- The table without its oldest evictable record, if it has one (R100). -/
def evictOldest : List ErrRecord → Option (List ErrRecord)
  | [] => none
  | r :: rs => if r.evictable then some rs else (evictOldest rs).map (r :: ·)

/-- The record of the arrival's address updated or reset in place (R95, cases 1 and 2). -/
def touched (a : Arrival) (r : ErrRecord) : ErrRecord :=
  if r.address = a.address then (if r.location = a.location then r.updated a else .fresh a) else r

/-- The table after an arrival; none where the arrival is dropped (R95, R101). -/
def placed (rs : List ErrRecord) (a : Arrival) : Option (List ErrRecord) :=
  if rs.any (fun r => r.address = a.address) then some (rs.map (touched a))
  else if rs.length < 16 then some (rs ++ [.fresh a])
  else (evictOldest rs).map (· ++ [.fresh a])

/-- The table with the record of an address PROMOTE_PENDING (R105). -/
def promoted (address : Nat) (rs : List ErrRecord) : List ErrRecord :=
  rs.map fun r => if r.address = address then { r with state := .promotePending } else r

/-- The examination of the record an arrival has left (R103 to R105). -/
def State.examine (s : State) (address : Nat) : State :=
  match s.records.find? (fun r => r.address = address) with
  | none => s
  | some r =>
    if r.promotable s.settings then
      if (freeSlot s.spareMap).isSome then { s with records := promoted address s.records }
      else s.occur .spareExhausted
    else s

/-- An arrival at the table (R95). -/
def State.arrive (s : State) (a : Arrival) : State :=
  match placed s.records a with
  | none => s.occur .recordOverflow
  | some rs => { s with records := rs }.examine a.address

/-- The arrival a decode makes: its kind, bit and syndrome are the decode's (R94). -/
def arrivalOf (d : Decoded) (kind : Detected) (address : Nat) (location : Location) (source : Source) (repair : Repair)
    (faulted : Bool) : Arrival :=
  { address := address, location := location, kind := kind, bit := d.bit, syndrome := d.syndrome, source := source,
    repair := repair, faulted := faulted }

/-- The table's answer to a delivery report for a word that has a record (R107). -/
def delivered (address : Nat) (repair : Repair) (rs : List ErrRecord) : List ErrRecord :=
  rs.map fun r => if r.address = address then { r with faulted := true, repair := repair } else r

/-- A delivery report (R107). -/
def State.deliveryReport (s : State) (address : Nat) (kind : Detected) (syndrome : Option Syndrome)
    (location : Location) (repair : Repair) : State :=
  if s.records.any (fun r => r.address = address) then { s with records := delivered address repair s.records }
  else
    s.arrive
      { address := address, location := location, kind := kind, bit := none, syndrome := syndrome,
        source := .prefetch, repair := repair, faulted := true }

/-! ### The port's answers -/

/-- A read beat answered with its data word and OK (R19). -/
abbrev UpResponse.beatOk (data : Word) : UpResponse := .beat data false

/-- A read beat answered ERROR: it carries the data word zero (R19). -/
abbrev UpResponse.beatError : UpResponse := .beat 0 true

/-- The completion OK of a write (R19). -/
abbrev UpResponse.writeOk : UpResponse := .completion false

/-- The completion ERROR of a write (R19). -/
abbrev UpResponse.writeError : UpResponse := .completion true

/-- A response sent on the upstream port. -/
def State.respond (s : State) (r : UpResponse) : State := { s with upSent := s.upSent ++ [r] }

/-- The transaction record is removed and the port returns to READY (R21). -/
def State.endTransaction (s : State) : State := { s with txn := none, port := .ready }

end Sys2Proof.Machine
end

