-- ==== Sys2Proof/Machine/Queue.lean ====
section
/-! DEFINITION. The Posted Write Queue: the newest entry for a word, the insertion of write beats, the offers of the
Read Path (spec/03, R40 to R49, R54, R55), with what an insertion does to the read-ahead buffer (R46, R75) and to the
lock (R84). -/

namespace Sys2Proof.Machine

/-- The newest entry for a word with its place, counted from `i` (R49). -/
def newestFrom (a : Nat) : Nat → List Entry → Option (Nat × Entry)
  | _, [] => none
  | i, e :: es =>
    match newestFrom a (i + 1) es with
    | some x => some x
    | none => if e.address = a then some (i, e) else none

/-- The newest entry for a word with its place, head 0. -/
def newestFor (q : List Entry) (a : Nat) : Option (Nat × Entry) := newestFrom a 0 q

/-- Whether the queue holds an entry for a word. -/
def holdsWord (q : List Entry) (a : Nat) : Bool := q.any fun e => e.address = a

/-! ### Beats -/

/-- The kind of the entry a write beat makes (R43, R45). -/
def beatKind (locked : Bool) : EntryKind := if locked then .lockedWrite else .busWrite

/-- The entry a beat is appended as (R43, R45, R55). -/
def appended (locked through : Bool) (a : Nat) (b : Beat) : Entry :=
  ⟨beatKind locked, a, b.data, b.lanes, through, .waiting⟩

/-- The WAITING entry a beat has merged into (R43 to R45, R55). A partial beat leaves a POISON entry as it is. -/
def merged (locked through : Bool) (b : Beat) (e : Entry) : Entry :=
  match e.kind with
  | .poison =>
    if b.lanes = .full then
      { e with kind := beatKind locked, data := b.data, lanes := .full, waiter := e.waiter || through }
    else { e with waiter := e.waiter || through }
  | .repair =>
    { e with
      kind := beatKind locked, data := mergeLanes b.lanes b.data e.data, lanes := e.lanes ||| b.lanes,
      waiter := e.waiter || through }
  | .busWrite | .lockedWrite =>
    { e with
      kind := if locked then .lockedWrite else e.kind, data := mergeLanes b.lanes b.data e.data,
      lanes := e.lanes ||| b.lanes, waiter := e.waiter || through }

/-- Whether a beat merging into an entry is lost (R44). -/
def lost (b : Beat) (e : Entry) : Bool := e.kind = .poison && b.lanes ≠ .full

/-- What the placing of one beat gives: the queue, the place of the entry that took it, whether it was lost. -/
structure Placing where
  queue : List Entry
  place : Nat
  lost  : Bool
  deriving DecidableEq, Repr

/-- One beat merged into the WAITING entry for its word, or appended (R43). -/
def placeBeat (locked through : Bool) (a : Nat) (b : Beat) : Nat → List Entry → Placing
  | i, [] => ⟨[appended locked through a b], i, false⟩
  | i, e :: es =>
    if e.address = a ∧ e.stage = .waiting then ⟨merged locked through b e :: es, i, lost b e⟩
    else
      let r := placeBeat locked through a b (i + 1) es
      ⟨e :: r.queue, r.place, r.lost⟩

/-! ### The read-ahead buffer at an insertion -/

/-- The line an entry holds. -/
def RaEntry.line? : RaEntry → Option Nat
  | .empty => none
  | .filling line _ _ => some line
  | .valid line _ _ => some line

/-- Whether an entry holds a line. -/
def RaEntry.holds (e : RaEntry) (line : Nat) : Bool := e.line? = some line

/-- One of the two entries. -/
def ReadAhead.get (ra : ReadAhead) (i : Fin 2) : RaEntry := if i = 0 then ra.e0 else ra.e1

/-- The buffer with one of its entries replaced. -/
def ReadAhead.set (ra : ReadAhead) (i : Fin 2) (e : RaEntry) : ReadAhead :=
  if i = 0 then { ra with e0 := e } else { ra with e1 := e }

/-- The buffer with the entry that holds a line EMPTY (R75). -/
def ReadAhead.without (ra : ReadAhead) (line : Nat) : ReadAhead :=
  ⟨if ra.e0.holds line then .empty else ra.e0, if ra.e1.holds line then .empty else ra.e1⟩

/-- A PREFETCH grant in progress for an entry that `p` says is gone no longer has an entry to fill (R75). -/
def detached (p : Fin 2 → Bool) (g : Option Grant) : Option Grant :=
  match g with
  | some ⟨.prefetch (some i) a loc k, orphan⟩ => if p i then some ⟨.prefetch none a loc k, orphan⟩ else g
  | _ => g

/-! ### The insertion -/

/-- A lock HELD at a word is BROKEN by a plain queued beat for the word (R84). -/
def brokenBy (a : Nat) (l : Option Lock) : Option Lock :=
  l.map fun k => if k.address = a then { k with state := .broken } else k

/-- One queued beat inserted: the queue, the read-ahead line (R46), the lock (R84) and the loss of a partial beat on a
POISON entry (R44). -/
def State.insertBeat (s : State) (locked through : Bool) (a : Nat) (b : Beat) : State :=
  let r := placeBeat locked through a b 0 s.queue
  { s with
    queue := r.queue,
    readAhead := s.readAhead.without (lineOf a),
    grant := detached (fun i => (s.readAhead.get i).holds (lineOf a)) s.grant,
    lock := if locked then s.lock else brokenBy a s.lock }.occurOpt (if r.lost then some .writeMergeFailed else none)

/-- What the insertion of a write's queued beats gives: the state, the places of the entries that took a beat, and
whether a beat was lost. -/
structure Insertion where
  state  : State
  places : List Nat
  lost   : Bool

/-- The queued beats inserted in beat order, one event (R29, R43). -/
def State.insertBeats (s : State) (locked through : Bool) : List (Nat × Beat) → Insertion
  | [] => ⟨s, [], false⟩
  | (a, b) :: rest =>
    let p := placeBeat locked through a b 0 s.queue
    let r := (s.insertBeat locked through a b).insertBeats locked through rest
    ⟨r.state, if p.place ∈ r.places then r.places else p.place :: r.places, p.lost || r.lost⟩

/-! ### Offers -/

/-- The answer of the queue to an offer for a word (R47). -/
def offerAnswer (q : List Entry) (a : Nat) : Repair :=
  if holdsWord q a then .notNeeded else if q.length < 8 then .queued else .dropped

/-- An offer of a REPAIR or POISON entry taken by the queue (R47). -/
def State.offer (s : State) (kind : EntryKind) (a : Nat) (data : Word) : State :=
  if offerAnswer s.queue a = .queued then
    { s with queue := s.queue ++ [⟨kind, a, data, .full, false, .waiting⟩] }
  else s

end Sys2Proof.Machine
end

