-- ==== Sys2Proof/Machine/ReadAheadOps.lean ====
section
/-! DEFINITION. The read-ahead buffer: which entry the prefetch serves, the words filled with zero above the fill
watermark, and the start of a prefetch by a read that touches a line (spec/04, R69 to R73). -/

namespace Sys2Proof.Machine

/-- The FILLING entry the prefetch serves: the one started earlier (R73). -/
def ReadAhead.served (ra : ReadAhead) : Option (Fin 2) :=
  match ra.e0, ra.e1 with
  | .filling _ earlier _, .filling _ _ _ => some (if earlier then 0 else 1)
  | .filling _ _ _, _ => some 0
  | _, .filling _ _ _ => some 1
  | _, _ => none

/-- The entry the prefetch serves and the word address it is to read next (R73). -/
def State.prefetchWord (s : State) : Option (Fin 2 × Nat) :=
  match s.readAhead.served with
  | none => none
  | some i =>
    match s.readAhead.get i with
    | .filling line _ slots => some (i, 8 * line + slots.length)
    | _ => none

/-- A FILLING entry with its next word slot filled; VALID after the word at offset 7 (R73). -/
def RaEntry.filled (e : RaEntry) (slot : RaSlot) : RaEntry :=
  match e with
  | .filling line earlier slots =>
    if slots.length < 7 then .filling line earlier (slots ++ [slot]) else .valid line earlier (slots ++ [slot])
  | _ => e

/-- The next word slot of an entry of the buffer filled. -/
def State.fillSlot (s : State) (i : Fin 2) (slot : RaSlot) : State :=
  { s with readAhead := s.readAhead.set i ((s.readAhead.get i).filled slot) }

/-- Up to `n` words above the fill watermark filled with zero GOOD at once (R73). -/
def State.zeroFill : Nat → State → State
  | 0, s => s
  | n + 1, s =>
    match s.prefetchWord with
    | none => s
    | some (i, a) => if s.unfilled (s.translate a).1 then zeroFill n (s.fillSlot i (.good 0)) else s

/-- An entry as the one started earlier. -/
def RaEntry.older : RaEntry → RaEntry
  | .empty => .empty
  | .filling line _ slots => .filling line true slots
  | .valid line _ slots => .valid line true slots

/-- Whether an entry is EMPTY. -/
def RaEntry.isEmpty (e : RaEntry) : Bool := e = .empty

/-- Whether an entry's prefetch started before the other's. -/
def RaEntry.startedEarlier : RaEntry → Bool
  | .empty => false
  | .filling _ earlier _ => earlier
  | .valid _ earlier _ => earlier

/-- The entry a starting prefetch takes (R72). -/
def ReadAhead.taken (ra : ReadAhead) : Fin 2 :=
  if ra.e0.isEmpty then 0 else if ra.e1.isEmpty then 1 else if ra.e0.startedEarlier then 0 else 1

/-- The buffer after a prefetch of a line has taken an entry (R72). -/
def ReadAhead.start (ra : ReadAhead) (line : Nat) : ReadAhead :=
  if ra.taken = 0 then ⟨.filling line false [], ra.e1.older⟩ else ⟨ra.e0.older, .filling line false []⟩

/-- A prefetch of a line starts: the taken entry's former prefetch is abandoned (R72), and words above the watermark
are filled at once (R73). -/
def State.startPrefetch (s : State) (line : Nat) : State :=
  { s with
    readAhead := s.readAhead.start line,
    grant := detached (fun i => i = s.readAhead.taken) s.grant }.zeroFill 16

/-- The four conditions for a prefetch of a line (R71). -/
def State.mayPrefetch (s : State) (line : Nat) : Bool :=
  decide (line < s.straps.visibleLines) && !s.readAhead.e0.holds line && !s.readAhead.e1.holds line &&
    !s.copying line &&
    !s.queue.any fun e => (e.kind = .busWrite || e.kind = .lockedWrite) && lineOf e.address = line

/-- A plain read touches the line of a word (R71). -/
def State.touchLine (s : State) (a : Nat) : State :=
  if s.settings.readAhead && s.mayPrefetch (lineOf a + 1) then s.startPrefetch (lineOf a + 1) else s

end Sys2Proof.Machine
end

