-- ==== Sys2Proof/Machine/ScrubCursors.lean ====
section
/-! DEFINITION. The Scrub Engine's cursors and pacer (spec/08, R139, R141 to R143). -/

namespace Sys2Proof.Machine

/-! ### Cursors and pacer -/

/-- A block or pass end of a run: WAITING for the interval the pacer computes (R143). -/
def Scrub.rest (sc : Scrub) (mode : ScrubMode) (st : Settings) : Scrub :=
  { sc with
    run := .running mode (.waiting (carry st.pacerBase st.pacerFraction sc.accumulator).1 false),
    accumulator := (carry st.pacerBase st.pacerFraction sc.accumulator).2 }

/-- The line cursor a SINGLE pass leaves (R142). -/
def singleEnd (line lines : Nat) : Nat := if line + 1 < lines then line + 1 else line

/-- The scrub after a line has been finished, `left` lines left in the block (R142). -/
def Scrub.lineDone (sc : Scrub) (mode : ScrubMode) (left : Nat) (st : Settings) (lines : Nat) : Scrub :=
  if sc.line < st.scrubEndLine then
    if left = 0 then { sc with word := 0, line := sc.line + 1 }.rest mode st
    else { sc with word := 0, line := sc.line + 1, run := .running mode (.sweeping left) }
  else
    match mode with
    | .single => { sc with word := 0, line := singleEnd sc.line lines, passes := sc.passes + 1, run := .stopped }
    | .continuous =>
      { sc with word := 0, line := st.scrubStartLine, passes := sc.passes + 1, skipped := 0 }.rest mode st

/-- The scrub after a word's grant has ended (R142). -/
def Scrub.advance (sc : Scrub) (st : Settings) (lines : Nat) : Scrub :=
  match sc.run with
  | .running mode (.sweeping left) =>
    if sc.word < 7 then { sc with word := sc.word + 1 } else sc.lineDone mode (left - 1) st lines
  | _ => sc

/-- Whether the scrub is SWEEPING, so that its next word is due (R141). -/
def Scrub.sweeping (sc : Scrub) : Bool :=
  match sc.run with
  | .running _ (.sweeping _) => true
  | _ => false

/-- The word address at the scrub cursors (R141). -/
def Scrub.address (sc : Scrub) : Nat := 8 * sc.line + sc.word

/-- How many words of the block are due at most, the word at the cursors among them; none while the scrub is not
SWEEPING (R142). -/
def Scrub.wordsDue (sc : Scrub) : Nat :=
  match sc.run with
  | .running _ (.sweeping left) => 8 * max left 1 - min sc.word 7
  | _ => 0

end Sys2Proof.Machine
end

