-- ==== Sys2Proof/Machine/Arbiter.lean ====
section
/-! DEFINITION. The arbiter: which requests stand, which one is granted, the pass-over counts, and what a grant fixes
(spec/04, R60, R61, R64 to R67; spec/03, R50, R52; spec/05, R80). -/

namespace Sys2Proof.Machine

/-! ### Requests -/

/-- The word address of the migration's copy cursor. -/
def State.copyWord (s : State) : Option Nat :=
  match s.migration with
  | none => none
  | some m =>
    match s.spareMap.get m.slot with
    | .copying line cursor _ _ => some (8 * line + cursor)
    | _ => none

/-- Whether a copy step is in progress: from the grant of its READ to the end of its VERIFY (R50). -/
def State.copyStepInProgress (s : State) : Bool :=
  match s.migration with
  | none => false
  | some m =>
    m.stepDue ≠ .read ||
      (match s.grant with
        | some ⟨.migrationRead _ _ _, orphan⟩ => !orphan
        | _ => false)

/-- Whether the head of the queue may ask for its drain (R50). -/
def State.headEligible (s : State) (e : Entry) : Bool :=
  !s.unfilled (s.translate e.address).1 && !(s.copyStepInProgress && s.copyWord = some e.address)

/-- Whether a taken locked read is ready for the array (R80). -/
def State.lockedReady (s : State) (a : Nat) : Bool :=
  !holdsWord s.queue a && !s.copying (lineOf a) && !s.unfilled (s.translate a).1

/-- The word a FOREGROUND request asks for, while the request stands (R65). -/
def State.foregroundWord (s : State) : Option Nat :=
  match s.txn with
  | some ⟨req, _, .read i .onArray⟩ => some (req.beatAddress i)
  | some ⟨req, _, .read i .onLock⟩ => if s.lockedReady (req.beatAddress i) then some (req.beatAddress i) else none
  | _ => none

/-- Whether the transaction in progress is locked. -/
def State.lockedTransaction (s : State) : Bool :=
  match s.txn with
  | some t => t.request.locked
  | none => false

/-- The location an executing INSPECT waits to read (R65). -/
def State.inspected (s : State) : Option Nat :=
  match s.executing with
  | some ⟨.inspect loc, _, _, true⟩ => some loc.toNat
  | _ => none

/-- Whether a class's request stands (R65). -/
def State.stands (s : State) : ReqClass → Bool
  | .foreground => s.foregroundWord.isSome
  | .drain =>
    match s.queue with
    | e :: _ => e.stage = .waiting && s.headEligible e
    | [] => false
  | .service => s.inspected.isSome
  | .fill => s.fill.filling
  | .migration => s.migration.isSome
  | .prefetch =>
    match s.prefetchWord with
    | some (_, a) => !s.unfilled (s.translate a).1
    | none => false
  | .scrub => s.scrub.sweeping

/-! ### The choice -/

/-- The classes, highest first (R66). -/
def ReqClass.all : List ReqClass := [.foreground, .drain, .service, .fill, .migration, .prefetch, .scrub]

/-- The count of a class that keeps one (R67). -/
def PassOver.of (p : PassOver) : ReqClass → Option Nat
  | .fill => some p.fill
  | .migration => some p.migration
  | .scrub => some p.scrub
  | _ => none

/-- The class that receives the next grant (R66). -/
def State.winner (s : State) : Option ReqClass :=
  match ReqClass.all.find? fun c => s.stands c && s.passOver.of c = some 32 with
  | some c => some c
  | none => ReqClass.all.find? fun c => s.stands c

/-- One count after a grant to class `c` (R67). -/
def countAfter (c k : ReqClass) (stands : Bool) (n : Nat) : Nat :=
  if c = k then 0 else if stands then min (n + 1) 32 else n

/-- The three counts after a grant to class `c` (R67). -/
def State.countsAfter (s : State) (c : ReqClass) : PassOver :=
  { fill := countAfter c .fill (s.stands .fill) s.passOver.fill,
    migration := countAfter c .migration (s.stands .migration) s.passOver.migration,
    scrub := countAfter c .scrub (s.stands .scrub) s.passOver.scrub }

/-! ### The grant -/

/-- The second location of a drain: the COPYING slot's word, where the offset is below the copy cursor (R52, R126). -/
def State.dualOf (s : State) (a : Nat) : Option Nat :=
  match copyingSlot s.spareMap (lineOf a) with
  | some (n, cursor) => if a % 8 < cursor then some (s.straps.slotBase n + a % 8) else none
  | none => none

/-- The location of a copy step's source word at an offset of a line (R119). -/
def State.sourceLocation (s : State) (source : Location) (line offset : Nat) : Nat :=
  match source with
  | .original => 8 * line + offset
  | .slot p => s.straps.slotBase p + offset

/-- The operation of the next grant of the migration (R119 to R121). -/
def State.migrationOp (s : State) : Option GrantOp :=
  match s.migration with
  | none => none
  | some m =>
    match s.spareMap.get m.slot with
    | .copying line cursor _ _ =>
      match m.stepDue with
      | .read => some (.migrationRead (8 * line + cursor) (s.sourceLocation m.source line cursor) m.source)
      | .write => some (.migrationWrite (s.straps.slotBase m.slot + cursor) (m.held.getD .zero))
      | .verify => some (.migrationVerify m.slot (s.straps.slotBase m.slot + cursor) (m.held.getD .zero))
    | _ => none

/-- The operation a grant to a class covers, with its location translated as the grant is given (R60, R61). -/
def State.grantOp (s : State) : ReqClass → Option GrantOp
  | .foreground =>
    s.foregroundWord.map fun a => .foreground a (s.translate a).1 (s.translate a).2 s.lockedTransaction
  | .drain =>
    s.queue.head?.map fun e => .drain (s.translate e.address).1 (s.translate e.address).2 (s.dualOf e.address)
  | .service => s.inspected.map .service
  | .fill => some (.fill s.fill.watermark)
  | .migration => s.migrationOp
  | .prefetch => s.prefetchWord.map fun p => .prefetch (some p.1) p.2 (s.translate p.2).1 (s.translate p.2).2
  | .scrub =>
    some (.scrub s.scrub.address (s.translate s.scrub.address).1 (s.translate s.scrub.address).2)

/-- The queue with its head DRAINING (R42). -/
def headDraining : List Entry → List Entry
  | [] => []
  | e :: es => { e with stage := .draining } :: es

/-- A grant to a class (R64, R67). -/
def State.give (s : State) (c : ReqClass) : State :=
  { s with
    passOver := s.countsAfter c,
    grant := (s.grantOp c).map fun op => ⟨op, false⟩,
    queue := if c = .drain then headDraining s.queue else s.queue }

/-- Whether the scrub's word is skipped: a queue entry for it, a lock on it, or its line in COPYING (R141). -/
def State.scrubSkips (s : State) : Bool :=
  holdsWord s.queue s.scrub.address || s.lock.any (fun l => l.address = s.scrub.address) ||
    s.copying (lineOf s.scrub.address)

/-- Whether the arbiter may give a grant: the array is free and no fill is to begin first (R64, R134). -/
def State.arrayFree (s : State) : Bool := s.grant.isNone && !s.fill.due

/-- The skip of the word at the cursors: a SCRUB grant that covers no array operation and ends at once (R64, R67,
R141). -/
def State.skipWord (s : State) : State :=
  { s with
    passOver := s.countsAfter .scrub,
    scrub := { s.scrub with skipped := min (s.scrub.skipped + 1) 65535 }.advance s.settings s.straps.visibleLines }

/-- The arbiter, with at most `n` grants: when the array is free, one standing request is granted (R64); a SCRUB grant
of a word that is skipped ends at once, and the array is then free for the next grant (R141). -/
def State.arbitrateWithin : Nat → State → State
  | 0, s => s
  | n + 1, s =>
    match s.winner with
    | none => s
    | some c =>
      if s.arrayFree then
        if c = .scrub && s.scrubSkips then arbitrateWithin n s.skipWord else s.give c
      else s

/-- The arbiter (R64): the words of a block bound how many grants can be skipped before one that is not. -/
def State.arbitrate (s : State) : State := s.arbitrateWithin (s.scrub.wordsDue + 1)

/-- The end of an event: words of the prefetch above the watermark are filled, then the arbiter grants (log 9). -/
def State.settle (s : State) : State := (s.zeroFill 16).arbitrate

end Sys2Proof.Machine
end

