-- ==== Sys2Proof/Machine/ReadPath.lean ====
section
/-! DEFINITION. The Read Path: what a decode for a read or a prefetch reports and offers (spec/04, R63, R74; spec/05,
R81, R90; spec/06, R94), the delivery of a BAD word (R76), and the service of the beats of a read (spec/02, R34 to R37).
-/

namespace Sys2Proof.Machine

/-! ### Reports of decodes -/

/-- The kind of entry offered for a detection (R47). -/
def offeredKind : Detected → EntryKind
  | .corrected => .repair
  | .uncorrectable => .poison
  | .poisoned => .poison

/-- The data an offered entry carries: the corrected data for REPAIR; a POISON entry's is not used (R47, log 17). -/
def offeredData (kind : Detected) (d : Decoded) : Word := if kind = .corrected then d.data else 0

/-- The source an uncorrectable read or a corrected decode raises for a foreground read (R63, R81). -/
def readFault : Detected → FaultSource
  | .corrected => .corrected
  | .uncorrectable => .readUncorrectable
  | .poisoned => .readUncorrectable

/-- Whether a foreground detection offers an entry: not once a system reset has come, and not for a locked read's
CORRECTED word (R81, R90, R94). -/
def foregroundOffers (locked orphan : Bool) (kind : Detected) : Bool := !orphan && !(locked && kind = .corrected)

/-- The repair value of a foreground detection's arrival (R94). -/
def foregroundRepair (locked orphan : Bool) (kind : Detected) (q : List Entry) (a : Nat) : Repair :=
  if foregroundOffers locked orphan kind then offerAnswer q a else if orphan then .none else .byWrite

/-- Offer, arrival and occurrence of a foreground read's decode (R63, R81, R90). -/
def State.foregroundReport (s : State) (d : Decoded) (a : Nat) (location : Location) (locked orphan : Bool) : State :=
  match d.outcome.detected with
  | none => s
  | some kind =>
    let offered :=
      if foregroundOffers locked orphan kind then s.offer (offeredKind kind) a (offeredData kind d) else s
    let arrived :=
      offered.arrive
        (arrivalOf d kind a location (if locked then .lockedRead else .read)
          (foregroundRepair locked orphan kind s.queue a) (decide (kind ≠ .corrected)))
    arrived.occur (readFault kind)

/-- Offer, arrival and occurrence of a prefetch decode (R74, R77). -/
def State.prefetchReport (s : State) (d : Decoded) (a : Nat) (location : Location) (orphan : Bool) : State :=
  match d.outcome.detected with
  | none => s
  | some .corrected =>
    let offered := if orphan then s else s.offer .repair a d.data
    let repair := if orphan then Repair.none else offerAnswer s.queue a
    (offered.arrive (arrivalOf d .corrected a location .prefetch repair false)).occur .corrected
  | some kind => s.arrive (arrivalOf d kind a location .prefetch .none false)

/-- The word slot a prefetch decode fills (R74). -/
def slotOf (d : Decoded) (location : Location) : RaSlot :=
  match d.outcome with
  | .clean => .good d.data
  | .corrected => .good d.data
  | .uncorrectable => .bad d.data .uncorrectable d.syndrome location
  | .poisoned => .bad d.data .poisoned none location

/-- A beat delivered from a BAD slot: the fault, the POISON offer and the delivery report (R76). -/
def State.deliverBad (s : State) (a : Nat) (kind : Detected) (syndrome : Option Syndrome) (location : Location) :
    State :=
  let raised := s.occur .readUncorrectable
  (raised.offer .poison a 0).deliveryReport a kind syndrome location (offerAnswer raised.queue a)

/-! ### Beats -/

/-- What the Read Path answers when it takes a beat (R34). -/
inductive BeatAnswer where
  | data (w : Word)
  | error
  | wait (w : BeatWait)
  deriving DecidableEq, Repr

/-- The buffer entry that holds a line, or EMPTY (R34, case 3). -/
def ReadAhead.entryFor (ra : ReadAhead) (line : Nat) : RaEntry :=
  if ra.e0.holds line then ra.e0 else if ra.e1.holds line then ra.e1 else .empty

/-- The array case: zero above the watermark, otherwise a FOREGROUND request (R34, case 4; R62). -/
def State.arrayCase (s : State) (a : Nat) : BeatAnswer :=
  if s.unfilled (s.translate a).1 then .data 0 else .wait .onArray

/-- One in-range beat taken from the first case of R34: the answer, and the state after what it reports. -/
def State.takeBeat (s : State) (a : Nat) : BeatAnswer × State :=
  match newestFor s.queue a with
  | some (i, e) =>
    if e.kind = .poison then (.error, s.occur .readUncorrectable)
    else if e.lanes = .full then (.data e.data, s)
    else (.wait (.onEntry i), s)
  | none =>
    match s.readAhead.entryFor (lineOf a) with
    | .valid _ _ slots =>
      match slots[a % 8]? with
      | some (.good w) => (.data w, s)
      | some (.bad _ kind syndrome location) => (.error, s.deliverBad a kind syndrome location)
      | none => (s.arrayCase a, s)
    | .filling line _ _ => (.wait (.onLine line), s)
    | .empty => (s.arrayCase a, s)

/-- A read whose beat `i` waits (R35). -/
def State.waitBeat (s : State) (req : Request) (marks : Option (List Bool)) (i : Nat) (w : BeatWait) : State :=
  { s with port := .readActive, txn := some ⟨req, marks, .read i w⟩ }

/-- The remaining `n` beats of a plain read, in beat order, until one waits or is answered ERROR or the last is
answered (R34 to R36). `fresh` says that the first of them is handed to the Read Path now, so that it touches its line
if it is the first of its run (R71). -/
def State.serveBeats (req : Request) (marks : Option (List Bool)) : Nat → Bool → State → State
  | 0, _, s => s.endTransaction
  | n + 1, fresh, s =>
    let i := req.count - (n + 1)
    let a := req.beatAddress i
    if markedInRange marks i then
      let t := if fresh && (i = 0 || a % 8 = 0) then s.touchLine a else s
      match t.takeBeat a with
      | (.data w, u) => serveBeats req marks n true (u.respond (.beatOk w))
      | (.error, u) => (u.respond .beatError).endTransaction
      | (.wait w, u) => u.waitBeat req marks i w
    else serveBeats req marks n true (s.respond (.beatOk 0))

/-- A plain read goes on from a beat whose wait has ended: the beat is taken again (R35). -/
def State.retakeBeat (s : State) : State :=
  match s.txn with
  | some ⟨req, marks, .read i _⟩ => State.serveBeats req marks (req.count - i) false s
  | _ => s

/-- The response to the beat an array read was for, and the rest of the burst (R34, R36, R63). -/
def State.answerBeat (s : State) (d : Decoded) : State :=
  match s.txn with
  | some ⟨req, marks, .read i _⟩ =>
    match d.outcome with
    | .clean | .corrected => State.serveBeats req marks (req.count - (i + 1)) true (s.respond (.beatOk d.data))
    | .uncorrectable | .poisoned => (s.respond .beatError).endTransaction
  | _ => s

end Sys2Proof.Machine
end

