-- ==== Sys2Proof/Machine/Upstream.lean ====
section
/-! DEFINITION. The commands of the upstream port: the acceptance checks (spec/02, R22 to R28), plain and locked reads
and writes (R29 to R36; spec/05, R79 to R86), the insertion of a waiting write and the completion of a THROUGH write. -/

namespace Sys2Proof.Machine

/-! ### Acceptance -/

/-- The decision of the acceptance checks on a request. -/
inductive Decision where
  | taken
  /-- refused, with the fault the check raises and whether the lock ends -/
  | refused (fault : Option FaultSource) (endsLock : Bool)
  deriving DecidableEq, Repr

/-- The device mode check passes (R23). -/
def modePasses (mode : DeviceMode) (op : RequestOp) : Bool :=
  match mode, op with
  | .normal, _ => true
  | .contained, .read => true
  | .contained, .write => false
  | .halted, _ => false

/-- The lock rules check (R24). -/
def lockRules (lock : Option Lock) (req : Request) : Decision :=
  if !req.locked then .taken
  else if req.count ≠ 1 then .refused (some .accessRefused) false
  else
    match req.op, lock with
    | .read, none => .taken
    | .read, some _ => .refused (some .lockFault) false
    | .write, none => .refused (some .lockFault) false
    | .write, some l =>
      match l.state with
      | .broken => .refused (some .lockFault) true
      | .held => if l.address = req.address.toNat then .taken else .refused (some .lockFault) false

/-- The range check passes (R25, R26). -/
def rangePasses (policy : RangePolicy) (visible : Nat) (req : Request) : Bool :=
  match policy with
  | .quiet => true
  | .error => (req.inRange visible).all id

/-- Whether a word lies in a guarded region (R27). -/
def guarded (st : Settings) (straps : Straps) (a : Nat) : Bool :=
  let g := a / straps.regionWords
  if g < 32 then st.guardLo.getLsbD g else st.guardHi.getLsbD (g - 32)

/-- The guard check passes (R27): every in-range beat counts, whatever its lane set. -/
def guardPasses (st : Settings) (straps : Straps) (req : Request) : Bool :=
  match req.op with
  | .read => true
  | .write =>
    req.privileged ||
      (List.range req.count).all fun i =>
        !(decide (req.beatAddress i < straps.visible) && guarded st straps (req.beatAddress i))

/-- The four checks in their order (R22). -/
def State.acceptance (s : State) (req : Request) : Decision :=
  if !modePasses s.faults.mode req.op then .refused none false
  else
    match lockRules s.lock req with
    | .refused f e => .refused f e
    | .taken =>
      if !rangePasses s.settings.rangePolicy s.straps.visible req then .refused (some .accessRefused) false
      else if !guardPasses s.settings s.straps req then .refused (some .accessRefused) false
      else .taken

/-- The ERROR of a refused request (R28). -/
def refusal : RequestOp → UpResponse
  | .read => .beatError
  | .write => .writeError

/-- A refused request (R24, R28): one ERROR, the check's fault, and the end of a BROKEN lock. -/
def State.refuse (s : State) (req : Request) (fault : Option FaultSource) (endsLock : Bool) : State :=
  { s with lock := if endsLock then none else s.lock }.respond (refusal req.op) |>.occurOpt fault

/-- The beat marks of a taken request: present under RANGE_POLICY QUIET (R20, R26). -/
def State.marksOf (s : State) (req : Request) : Option (List Bool) :=
  match s.settings.rangePolicy with
  | .error => none
  | .quiet => some (req.inRange s.straps.visible)

/-! ### Reads -/

/-- A taken plain READ (R34). -/
def State.takeRead (s : State) (req : Request) : State :=
  State.serveBeats req (s.marksOf req) req.count true s

/-- A taken locked READ: out of range under QUIET it is answered zero OK; otherwise it waits for the array (R79). -/
def State.takeLockedRead (s : State) (req : Request) : State :=
  if markedInRange (s.marksOf req) 0 then s.waitBeat req (s.marksOf req) 0 .onLock
  else (s.respond (.beatOk 0)).endTransaction

/-! ### Writes -/

/-- The posting mode a write is recorded with (R20). -/
def State.postingOf (s : State) (req : Request) : PostingMode := if req.locked then .through else s.settings.posting

/-- The lock when a locked write is taken: its hold time is absent (R85). -/
def timerStopped (l : Option Lock) : Option Lock :=
  l.map fun k => { k with remaining := none, expiryDue := false }

/-- The insertion of a write's queued beats and what the port does after it (R29, R31, R32). -/
def State.insertWrite (s : State) (req : Request) (marks : Option (List Bool)) (posting : PostingMode) : State :=
  let r := s.insertBeats req.locked (decide (posting = .through)) (queuedBeats req marks)
  match posting with
  | .posted => (r.state.respond .writeOk).endTransaction
  | .through =>
    { r.state with port := .writeDrainWait, txn := some ⟨req, marks, .write .through r.places r.lost⟩ }

/-- The free entries of the queue (R40). -/
def State.freeEntries (s : State) : Nat := 8 - s.queue.length

/-- A taken WRITE: completed at once where no beat is queued (R30), inserted where the queue has room, and otherwise
waiting for space (R29). A locked write stops the hold timer (R85). -/
def State.takeWrite (s : State) (req : Request) : State :=
  let t := { s with lock := if req.locked then timerStopped s.lock else s.lock }
  let need := (queuedBeats req (s.marksOf req)).length
  if need = 0 then
    { t with lock := if req.locked then none else t.lock }.respond .writeOk |>.endTransaction
  else if need ≤ t.freeEntries then t.insertWrite req (s.marksOf req) (s.postingOf req)
  else
    { t with
      port := .writeSpaceWait,
      txn := some ⟨req, s.marksOf req, .write (s.postingOf req) [] false⟩ }

/-! ### Presentation -/

/-- A taken request (R21). -/
def State.take (s : State) (req : Request) : State :=
  match req.op, req.locked with
  | .read, false => s.takeRead req
  | .read, true => s.takeLockedRead req
  | .write, _ => s.takeWrite req

/-- A request presented in READY (R22, R28). -/
def State.check (s : State) (req : Request) : State :=
  match s.acceptance req with
  | .refused f e => s.refuse req f e
  | .taken => s.take req

/-- A request presented at the port (R21). In READY it is checked; in any other state it is held on the bus, and is
presented again when the port is READY (log 8). While one request is held, no other can be presented. -/
def State.present (s : State) (req : Request) : State :=
  if s.held = none ∨ s.held = some req then
    if s.port = .ready then ({ s with held := none }.check req).settle else { s with held := some req }
  else s

/-- READ_REQUEST (R22, R34). -/
def execReadRequest (address : BitVec 22) (count : Nat) (privileged : Bool) (s : State) :
    Host.Outcome State Fault Refusal :=
  if (Instr.readRequest address count privileged).wellFormed then
    .next (s.present (readOf address count false privileged))
  else .next s

/-- WRITE_REQUEST (R22, R29). -/
def execWriteRequest (address : BitVec 22) (beats : List Beat) (privileged : Bool) (s : State) :
    Host.Outcome State Fault Refusal :=
  if (Instr.writeRequest address beats privileged).wellFormed then
    .next (s.present (writeOf address beats false privileged))
  else .next s

/-- LOCKED_READ_REQUEST (R24, R79). -/
def execLockedReadRequest (address : BitVec 22) (count : Nat) (privileged : Bool) (s : State) :
    Host.Outcome State Fault Refusal :=
  if (Instr.lockedReadRequest address count privileged).wellFormed then
    .next (s.present (readOf address count true privileged))
  else .next s

/-- LOCKED_WRITE_REQUEST (R24, R85). -/
def execLockedWriteRequest (address : BitVec 22) (beats : List Beat) (privileged : Bool) (s : State) :
    Host.Outcome State Fault Refusal :=
  if (Instr.lockedWriteRequest address beats privileged).wellFormed then
    .next (s.present (writeOf address beats true privileged))
  else .next s

/-! ### The steps that carry a taken request on -/

/-- WRITE_INSERTION: a write in WRITE_SPACE_WAIT is inserted once the queue has as many free entries as it needs
(R29). -/
def execWriteInsertion (s : State) : Host.Outcome State Fault Refusal :=
  match s.port, s.txn with
  | .writeSpaceWait, some ⟨req, marks, .write posting _ _⟩ =>
    if (queuedBeats req marks).length ≤ s.freeEntries then .next (s.insertWrite req marks posting).settle
    else .next s
  | _, _ => .next s

/-- The completion of a THROUGH write: OK, or ERROR where failed is yes; a locked write's ends the lock (R32, R85). -/
def State.complete (s : State) (req : Request) (failed : Bool) : State :=
  { s with lock := if req.locked then none else s.lock }.respond (if failed then .writeError else .writeOk)
    |>.endTransaction

/-- WRITE_COMPLETION: the last awaited entry has drained (R32). -/
def execWriteCompletion (s : State) : Host.Outcome State Fault Refusal :=
  match s.port, s.txn with
  | .writeDrainWait, some ⟨req, _, .write _ [] failed⟩ => .next (s.complete req failed).settle
  | _, _ => .next s

/-- Whether the wait of the read beat in service has ended (R35). -/
def State.waitOver (s : State) : BeatWait → Bool
  | .over => true
  | .onLine line =>
    match s.readAhead.entryFor line with
    | .filling _ _ _ => false
    | _ => true
  | .onEntry _ => false
  | .onArray => false
  | .onLock => false

/-- READ_BEAT_RETAKEN: a beat whose wait has ended is taken again from the first case (R34, R35). -/
def execReadBeatRetaken (s : State) : Host.Outcome State Fault Refusal :=
  match s.port, s.txn with
  | .readActive, some ⟨_, _, .read _ w⟩ => if s.waitOver w then .next s.retakeBeat.settle else .next s
  | _, _ => .next s

end Sys2Proof.Machine
end

