-- ==== Sys2Proof/Machine/LinkOps.lean ====
section
/-! DEFINITION. The parser's frame checks, the responses, and the end of a command's execution (spec/10, R164, R166,
R169 to R173; spec/11, R175, R181). -/

namespace Sys2Proof.Machine

/-! ### Statuses and responses -/

/-- The status codes (R173). -/
inductive Status where
  | ok
  | badChecksum
  | badLength
  | unknownCommand
  | badArgument
  | busy
  | refused
  deriving DecidableEq, Repr

/-- The code of a status (R173). -/
def Status.code : Status → Nat
  | .ok => 0
  | .badChecksum => 1
  | .badLength => 2
  | .unknownCommand => 3
  | .badArgument => 4
  | .busy => 5
  | .refused => 6

/-- The status byte, its top bit the frame's noise marker (R171). -/
def Status.byte (st : Status) (noise : Bool) : Byte := BitVec.ofNat 8 (st.code + if noise then 128 else 0)

/-- The payload a status goes with: none but for OK (R171). -/
def Status.payload (st : Status) (payload : List Byte) : List Byte := if st = .ok then payload else []

/-- The byte that brings a sum of bytes to 0 modulo 256 (R171). -/
def checksumOf (bs : List Byte) : Byte := 0 - byteSum bs

/-- The characters of a response: status, length, payload, checksum (R171). -/
def response (st : Status) (payload : List Byte) (noise : Bool) : List Byte :=
  let body := st.byte noise :: BitVec.ofNat 8 (st.payload payload).length :: st.payload payload
  body ++ [checksumOf body]

/-! ### Commands -/

/-- The argument bytes a command byte's command takes; none where it names no command (R175). -/
def argumentBytes (command : Byte) : Option Nat :=
  match command.toNat with
  | 0x01 => some 0
  | 0x02 => some 0
  | 0x03 => some 0
  | 0x04 => some 2
  | 0x05 => some 0
  | 0x06 => some 2
  | 0x07 => some 3
  | 0x08 => some 0
  | 0x09 => some 0
  | 0x0A => some 3
  | 0x0B => some 1
  | 0x0C => some 0
  | 0x0D => some 1
  | 0x0E => some 5
  | 0x0F => some 3
  | 0x10 => some 0
  | _ => none

/-- Byte k of a payload. -/
def argument (payload : List Byte) (k : Nat) : Byte := payload.getD k 0

/-- The service command of a command byte and its payload (R175, R177 to R182). -/
def svcCommand (command : Byte) (payload : List Byte) : Option SvcCommand :=
  match command.toNat with
  | 0x01 => some .identify
  | 0x02 => some .readStatus
  | 0x03 => some .readFaults
  | 0x04 => some (.clearFaults (BitVec.ofNat 16 (leNat payload)))
  | 0x05 => some .releaseMode
  | 0x06 => some (.readRecords (argument payload 0) (argument payload 1))
  | 0x07 => some (.closeRecord (BitVec.ofNat 24 (leNat payload)))
  | 0x08 => some .clearRecords
  | 0x09 => some .readSpareMap
  | 0x0A => some (.spareLine (BitVec.ofNat 24 (leNat payload)))
  | 0x0B => some (.scrubStart (argument payload 0))
  | 0x0C => some .scrubStop
  | 0x0D => some (.getSetting (argument payload 0))
  | 0x0E => some (.setSetting (argument payload 0) (BitVec.ofNat 32 (leNat (payload.drop 1))))
  | 0x0F => some (.inspect (BitVec.ofNat 24 (leNat payload)))
  | 0x10 => some .resetPart
  | _ => none

/-! ### Timing -/

/-- The timing the settings give (R164). -/
def Settings.timing (st : Settings) : Timing := ⟨st.linkDivisor, st.linkFraction⟩

/-- The end of a response, sent in full, cut or withdrawn, or of a broadcast command's execution: a change of link
timing takes effect (R164), and the reset of a RESET_PART is due (R171, R181, log 2). -/
def State.acknowledged (s : State) (resetPart : Bool) : State :=
  { s with link := { s.link with inUse := s.settings.timing }, resetDue := s.resetDue || resetPart }

/-! ### The parser -/

/-- The parser begins a response (R171), which goes out on SVC_TX; the transmitter sets its accumulator to 0 (R164). -/
def Link.beginResponse (l : Link) (characters : List Byte) (resetPart : Bool) : Link :=
  { l with parser := .respond characters resetPart, txAcc := 0, frameTimer := none, svcTx := .sending }

/-- The parser in HUNT. -/
def Link.toHunt (l : Link) : Link := { l with parser := .hunt, frameTimer := none }

/-- The bytes whose sum the checksum makes 0 (R170). -/
def Frame.summed (f : Frame) : List Byte :=
  f.command :: BitVec.ofNat 8 f.length :: (f.payload ++ [f.checksum])

/-- The first failing check of a complete frame (R170). -/
def Frame.failure (f : Frame) : Option Status :=
  if byteSum f.summed ≠ 0 then some .badChecksum
  else
    match argumentBytes f.command with
    | none => some .unknownCommand
    | some n => if f.length = n then none else some .badLength

/-- A complete frame passes to its checks (R170): a frame that passes enters EXECUTE and is handed to the Command Unit.
A frame that fails one passes through EXECUTE and is answered, or dropped when it was broadcast, within the same event,
so the parser never rests in EXECUTE for it: the model's choice, since the Command Unit has nothing to do for it (log
30). -/
def State.checkFrame (s : State) : State :=
  match s.link.frame.failure with
  | some st =>
    if s.link.frame.broadcast then { s with link := s.link.toHunt }
    else { s with link := s.link.beginResponse (response st [] s.link.frame.noise) false }
  | none =>
    match svcCommand s.link.frame.command s.link.frame.payload with
    | some c =>
      { s with
        link := { s.link with parser := .execute, frameTimer := none },
        executing := some ⟨c, s.link.frame.broadcast, false, false⟩ }
    | none => s

/-- A complete frame that waited for the Command Unit goes to its checks once the unit is free (R170). -/
def State.resumeFrame (s : State) : State :=
  if s.link.parser = .collect ∧ s.link.frame.position = .complete ∧ s.executing = none then s.checkFrame else s

/-! ### The end of an execution -/

/-- The Command Unit returns a status and a payload (R170, R172): a unicast command is answered, a broadcast one is
not, and neither is one whose response a break has withdrawn. -/
def State.finish (s : State) (st : Status) (payload : List Byte) : State :=
  match s.executing with
  | none => s
  | some e =>
    let t := { s with executing := none }
    let resetPart : Bool := e.command = .resetPart
    if e.withdrawn then (t.acknowledged resetPart).resumeFrame
    else if e.broadcast then { t with link := t.link.toHunt }.acknowledged resetPart
    else { t with link := t.link.beginResponse (response st payload t.link.frame.noise) resetPart }

/-- Whether the Command Unit has been handed a command that it has not begun to wait on (R175). -/
def State.handed (s : State) (c : SvcCommand) : Bool :=
  match s.executing with
  | some e => e.command = c && !e.waiting
  | none => false

/-- Whether a SCRUB_STOP waits for the end of a SCRUB grant (R145, R179). -/
def State.stopWaits (s : State) : Bool :=
  match s.executing with
  | some e => e.command = .scrubStop && e.waiting
  | none => false

/-- The command in execution begins to wait for a grant (R170). -/
def State.waitForGrant (s : State) : State :=
  { s with executing := s.executing.map fun e => { e with waiting := true } }

end Sys2Proof.Machine
end

