-- ==== Sys2Proof/Machine/Layouts.lean ====
section
/-! DEFINITION. The payload layouts (spec/11, R183 to R185). -/

namespace Sys2Proof.Machine

/-- A byte of a number. -/
def byteNat (n : Nat) : Byte := BitVec.ofNat 8 n

/-- A bit as a number. -/
def bitNat (b : Bool) : Nat := if b then 1 else 0

/-- Record byte 3 (R183). -/
def Location.encode : Location → Nat
  | .original => 0x00
  | .slot n => 0x08 + n.val

/-- Record byte 4 (R183). -/
def Detected.encode : Detected → Nat
  | .corrected => 1
  | .uncorrectable => 2
  | .poisoned => 3

/-- Record byte 5; 0xFF when absent (R183). -/
def encodeBit : Option ErrorBit → Nat
  | none => 0xFF
  | some (.data n) => n.val
  | some (.check k) => 0x20 + k.val

/-- Record byte 6; 0xFF when absent (R183). -/
def encodeSyndrome : Option Syndrome → Nat
  | none => 0xFF
  | some y => y.s.toNat + 64 * bitNat y.odd

/-- Record byte 8 (R183). -/
def Source.encode : Source → Nat
  | .read => 1
  | .lockedRead => 2
  | .prefetch => 3
  | .merge => 4
  | .scrub => 5
  | .migration => 6

/-- Record byte 10 (R183). -/
def Repair.encode : Repair → Nat
  | .none => 0
  | .queued => 1
  | .dropped => 2
  | .notNeeded => 3
  | .byWrite => 4
  | .direct => 5
  | .moved => 6

/-- Record byte 12 (R183). -/
def RecordState.encode : RecordState → Nat
  | .opened => 0
  | .promotePending => 1
  | .migrating => 2
  | .spared => 3

/-- The 14 bytes of a record at an index (R183). -/
def ErrRecord.bytes (r : ErrRecord) (index : Nat) : List Byte :=
  leBytes 3 r.address ++
    [byteNat r.location.encode, byteNat r.kind.encode, byteNat (encodeBit r.bit), byteNat (encodeSyndrome r.syndrome),
      byteNat r.count, byteNat r.firstSource.encode, byteNat r.lastSource.encode, byteNat r.repair.encode,
      byteNat (bitNat r.faulted), byteNat r.state.encode, byteNat index]

/-- The origin bit of a Spare Map entry (R184). -/
def Origin.encode : Origin → Nat
  | .promotion => 0
  | .command => 1

/-- The 4 bytes of a Spare Map entry with these fields (R184). -/
def spareBytes (state : Nat) (origin : Nat) (previous : Option (Fin 8)) (line cursor : Nat) : List Byte :=
  byteNat (state + 4 * origin + 8 * bitNat previous.isSome + 16 * (previous.elim 0 fun p => p.val)) ::
    leBytes 3 (line + 0x100000 * cursor)

/-- The 4 bytes of a Spare Map entry; absent fields are zero (R184). -/
def SpareEntry.bytes : SpareEntry → List Byte
  | .free => spareBytes 0 0 none 0 0
  | .copying line cursor origin previous => spareBytes 1 origin.encode previous line cursor
  | .active line origin => spareBytes 2 origin.encode none line 0
  | .retired => spareBytes 3 0 none 0 0

/-- READ_SPARE_MAP's payload: the eight entries in slot order (R184). -/
def spareMapBytes (m : PerSlot SpareEntry) : List Byte := allSlots.flatMap fun n => (m.get n).bytes

/-- The outcome byte of INSPECT (R184). -/
def DecodeOutcome.encode : DecodeOutcome → Nat
  | .clean => 0
  | .corrected => 1
  | .uncorrectable => 2
  | .poisoned => 3

/-- The check byte of a stored word: bits 0 to 6 the code, bit 7 the mark (R6). -/
def StoredWord.checkByte (w : StoredWord) : Nat := w.code.toNat + 128 * bitNat w.mark

/-- INSPECT's payload, 15 bytes (R184). -/
def inspectBytes (loc : Nat) (w : StoredWord) : List Byte :=
  leBytes 3 loc ++ leBytes 4 w.data.toNat ++
    [byteNat (StoredWord.checkByte w), byteNat (decode w).outcome.encode, byteNat (encodeSyndrome (decode w).syndrome),
      byteNat (encodeBit (decode w).bit)] ++ leBytes 4 (decode w).data.toNat

/-- IDENTIFY's payload, 13 bytes (R185). -/
def identifyBytes (c : Straps) : List Byte :=
  leBytes 2 0x0B57 ++ leBytes 2 0x01A1 ++ [byteNat 1] ++ leBytes 3 c.populated ++ leBytes 3 c.visible ++
    [byteNat c.station.toNat, byteNat (c.size.toNat + 8 * bitNat c.preserve)]

/-- The lock state of READ_STATUS (R185). -/
def lockCode : Option Lock → Nat
  | none => 0
  | some l =>
    match l.state with
    | .held => 1
    | .broken => 2

/-- The scrub state of READ_STATUS (R185). -/
def ScrubRun.encode : ScrubRun → Nat
  | .stopped => 0
  | .running _ (.sweeping _) => 1
  | .running _ (.waiting _ _) => 2
  | .paused _ _ => 3

/-- The slot, cursor and line of the migration in progress, 0 when IDLE (R185). -/
def State.migrationStatus (s : State) : Nat × Nat × Nat :=
  match s.migration with
  | none => (0, 0, 0)
  | some m =>
    match s.spareMap.get m.slot with
    | .copying line cursor _ _ => (m.slot.val, cursor, line)
    | _ => (m.slot.val, 0, 0)

/-- Whether the snapshot holds a source. -/
def FaultUnit.snapshotHolds (fu : FaultUnit) : Bool := FaultSource.all.any fun src => fu.snapshot.get src

/-- READ_STATUS's payload, 22 bytes (R185). The bits the layout names no field for, bits 6 and 7 of byte 1, bits 2, 3
and 7 of byte 5 and bit 3 of byte 18, are sent as 0: the model's choice (log 33). -/
def State.statusBytes (s : State) : List Byte :=
  [byteNat s.faults.mode.rank,
    byteNat (bitNat s.resetInProgress + 2 * bitNat s.fill.filling + 4 * bitNat s.faults.snapshotHolds +
      8 * lockCode s.lock + 32 * bitNat s.migration.isSome)] ++
    leBytes 3 s.fill.watermark ++ [byteNat (s.scrub.run.encode + 16 * s.scrub.word)] ++ leBytes 3 s.scrub.line ++
    leBytes 2 s.scrub.passes.toNat ++ leBytes 2 s.scrub.skipped ++
    [byteNat s.queue.length, byteNat s.records.length] ++ leBytes 3 (s.lock.elim 0 fun l => l.address) ++
    [byteNat (s.migrationStatus.1 + 16 * s.migrationStatus.2.1)] ++ leBytes 3 s.migrationStatus.2.2

/-- The two bytes of a fault source (R185). The bits the layout names no field for, bits 4 to 6 of the first and bits 3
and 7 of the second, are sent as 0: the model's choice (log 33). -/
def sourceBytes (r : FaultRecord) (configured : Reaction) : List Byte :=
  [byteNat (r.count + 128 * bitNat r.set), byteNat (configured.rank + 16 * r.effective.rank)]

/-- The reset snapshot as a number, bit n - 1 for source n (R185). Its bits 9 to 15, which name no source, are sent as
0: the model's choice (log 33). -/
def snapshotNat (p : PerSource Bool) : Nat :=
  FaultSource.all.foldl (fun n src => n + bitNat (p.get src) * 2 ^ src.place) 0

/-- READ_FAULTS's payload, 20 bytes (R185). -/
def State.faultBytes (s : State) : List Byte :=
  (FaultSource.all.flatMap fun src => sourceBytes (s.faults.sources.get src) (s.settings.reactions.get src)) ++
    leBytes 2 (snapshotNat s.faults.snapshot)

end Sys2Proof.Machine
end

