-- ==== Sys2Proof/Machine/ArrayOps.lean ====
section
/-! DEFINITION. The ends of the array operations of the read path, the queue, the fill and INSPECT (spec/04, R63, R74;
spec/05, R81; spec/03, R51 to R53; spec/08, R135; spec/11, R180). Each row ends the grant of its class that is in
progress, and where there is none leaves the state as it is (log 1). -/

namespace Sys2Proof.Machine

/-! ### The array behind a grant -/

/-- The array operation in progress has ended: the array is free, and the bits the SRAM had changed at the location
read stand in it (log 4). -/
def State.opened (s : State) (loc : Nat) (u : Upset) : State :=
  { s with grant := none, mem := s.mem.disturbed loc u }

/-- A stored word written to a location (R7). -/
def State.store (s : State) (loc : Nat) (w : StoredWord) : State := { s with mem := s.mem.write loc w }

/-- The same stored word written to the second location of a dual write, if there is one (R52). -/
def State.storeDual (s : State) (dual : Option Nat) (w : StoredWord) : State :=
  { s with mem := dual.elim s.mem fun loc => s.mem.write loc w }

/-! ### FOREGROUND -/

/-- FOREGROUND_READ (R63, R36; R38 for a beat that a system reset has abandoned). -/
def execForegroundRead (upset : Upset) (s : State) : Host.Outcome State Fault Refusal :=
  match s.grant with
  | some ⟨.foreground a loc location false, orphan⟩ =>
    let t := s.opened loc upset
    let d := decode (t.mem.read loc)
    let r := t.foregroundReport d a location false orphan
    .next (if orphan then r else r.answerBeat d).settle
  | _ => .next s

/-- The lock a locked read makes (R81). -/
def madeLock (a limit : Nat) : Lock := ⟨a, .held, some limit, false⟩

/-- The beat of a locked read answered, and the lock it makes (R81). -/
def State.answerLocked (s : State) (d : Decoded) (a : Nat) : State :=
  match d.outcome with
  | .clean | .corrected =>
    { s with lock := some (madeLock a s.settings.lockLimit) }.respond (.beatOk d.data) |>.endTransaction
  | .uncorrectable | .poisoned => (s.respond .beatError).endTransaction

/-- LOCKED_READ_DECODE (R81; R90 for a grant that a system reset has abandoned). -/
def execLockedReadDecode (upset : Upset) (s : State) : Host.Outcome State Fault Refusal :=
  match s.grant with
  | some ⟨.foreground a loc location true, orphan⟩ =>
    let t := s.opened loc upset
    let d := decode (t.mem.read loc)
    let r := t.foregroundReport d a location true orphan
    .next (if orphan then r else r.answerLocked d a).settle
  | _ => .next s

/-! ### DRAIN -/

/-- The decode a drain makes: a read-merge-write's (R14, R51). -/
def drainDecode (e : Entry) (w : StoredWord) : Option Decoded :=
  if e.kind = .poison ∨ e.lanes = .full then none else some (decode w)

/-- Whether a decode lets its data be used (R13). -/
def Decoded.good (d : Decoded) : Bool :=
  match d.outcome with
  | .clean | .corrected => true
  | .uncorrectable | .poisoned => false

/-- The stored word a drain writes, from the word it reads (R14 to R16). -/
def drainWord (e : Entry) (w : StoredWord) : StoredWord :=
  if e.kind = .poison then marked w
  else if e.lanes = .full then encoded e.data
  else if (decode w).good then encoded (mergeLanes e.lanes e.data (decode w).data)
  else marked w

/-- Whether a drain's merge failed (R16). -/
def drainFailed (e : Entry) (w : StoredWord) : Bool :=
  match drainDecode e w with
  | some d => !d.good
  | none => false

/-- The arrival's repair value and the fault of a merge's detection (R53). -/
def mergeRepair (kind : Detected) : Repair := if kind = .corrected then .direct else .none

/-- The fault of a merge's detection (R53). -/
def mergeFault : Detected → FaultSource
  | .corrected => .corrected
  | .uncorrectable => .writeMergeFailed
  | .poisoned => .writeMergeFailed

/-- Arrival and occurrence of a detection whose arrival offers nothing (R53, R119, R141). -/
def State.directReport (s : State) (d : Decoded) (a : Nat) (location : Location) (source : Source)
    (repair : Detected → Repair) (fault : Detected → FaultSource) : State :=
  match d.outcome.detected with
  | none => s
  | some kind =>
    (s.arrive (arrivalOf d kind a location source (repair kind) (decide (kind ≠ .corrected)))).occur (fault kind)

/-- Arrival and occurrence of a drain's decode, if it makes one (R53). -/
def State.mergeReport (s : State) (d : Option Decoded) (a : Nat) (location : Location) : State :=
  match d with
  | none => s
  | some d => s.directReport d a location .merge mergeRepair mergeFault

/-- A beat's wait once the head has left the queue (R35). -/
def BeatWait.headLeft : BeatWait → BeatWait
  | .onEntry 0 => .over
  | .onEntry (n + 1) => .onEntry n
  | w => w

/-- The places of the awaited entries once the head has left the queue (R32). -/
def headLeft (awaited : List Nat) : List Nat := (awaited.filter (· ≠ 0)).map (· - 1)

/-- The transaction once the head has left the queue, with the head's result where it has a waiter (R32, R35, R55). -/
def Transaction.headLeft (t : Transaction) (failed : Bool) : Transaction :=
  match t.progress with
  | .read i w => { t with progress := .read i w.headLeft }
  | .write posting awaited f => { t with progress := .write posting (Machine.headLeft awaited) (f || failed) }

/-- The head leaves the queue and its result goes to its waiter (R51, R55). -/
def State.headDone (s : State) (rest : List Entry) (failed : Bool) : State :=
  { s with queue := rest, txn := s.txn.map fun t => t.headLeft failed }

/-- DRAIN_END (R51 to R53). The detection is reported before the waiter is answered. -/
def execDrainEnd (upset : Upset) (s : State) : Host.Outcome State Fault Refusal :=
  match s.grant, s.queue with
  | some ⟨.drain loc location dual, _⟩, e :: rest =>
    let t := s.opened loc upset
    let w := t.mem.read loc
    let r := ((t.store loc (drainWord e w)).storeDual dual (drainWord e w)).mergeReport (drainDecode e w) e.address
      location
    .next (r.headDone rest (e.waiter && drainFailed e w)).settle
  | _, _ => .next s

/-! ### PREFETCH -/

/-- A read beat waiting on a line that the prefetch has made VALID is served (R73, log 19). -/
def State.serveWaitingLine (s : State) (line : Nat) : State :=
  match s.port, s.txn with
  | .readActive, some ⟨_, _, .read _ (.onLine l)⟩ =>
    if l = line ∧ s.waitOver (.onLine line) = true then s.retakeBeat else s
  | _, _ => s

/-- A prefetched word kept, and the beat that waits for its line (R73); nothing where the entry is gone (R75, R77). -/
def State.keepPrefetched (s : State) (entry : Option (Fin 2)) (line : Nat) (slot : RaSlot) : State :=
  match entry with
  | some i => ((s.fillSlot i slot).zeroFill 16).serveWaitingLine line
  | none => s

/-- PREFETCH_READ (R73 to R75; R77 for a grant that a system reset has abandoned). -/
def execPrefetchRead (upset : Upset) (s : State) : Host.Outcome State Fault Refusal :=
  match s.grant with
  | some ⟨.prefetch entry a loc location, orphan⟩ =>
    let t := s.opened loc upset
    let d := decode (t.mem.read loc)
    let r := t.prefetchReport d a location orphan
    .next (r.keepPrefetched (if orphan then none else entry) (lineOf a) (slotOf d location)).settle
  | _ => .next s

/-! ### FILL -/

/-- The fill after one more location; DONE at P (R135). -/
def Fill.advanced (f : Fill) (populated : Nat) : Fill :=
  { f with watermark := f.watermark + 1, filling := f.filling && decide (f.watermark + 1 < populated) }

/-- FILL_WRITE (R135). -/
def execFillWrite (s : State) : Host.Outcome State Fault Refusal :=
  match s.grant with
  | some ⟨.fill loc, _⟩ =>
    .next { s with grant := none, mem := s.mem.fillAt loc, fill := s.fill.advanced s.straps.populated }.settle
  | _ => .next s

/-! ### SERVICE -/

/-- INSPECT_READ: the stored word as read and its decode go back to the controller; nothing is reported (R180). -/
def execInspectRead (upset : Upset) (s : State) : Host.Outcome State Fault Refusal :=
  match s.grant with
  | some ⟨.service loc, _⟩ =>
    let t := s.opened loc upset
    .next (t.finish .ok (inspectBytes loc (t.mem.read loc))).settle
  | _ => .next s

end Sys2Proof.Machine
end

