-- ==== Sys2Proof/Machine/MigrationOps.lean ====
section
/-! DEFINITION. The Migration Engine: its start, the three grants of a copy step, retirement, restart, abandonment and
completion (spec/07, R116 to R124, R132; spec/06, R106). -/

namespace Sys2Proof.Machine

/-! ### The records of a line (R106) -/

/-- The records of a line given a state where `p` holds of the state they have. -/
def restated (line : Nat) (p : RecordState → Bool) (state : RecordState) (rs : List ErrRecord) : List ErrRecord :=
  rs.map fun r => if lineOf r.address = line ∧ p r.state = true then { r with state := state } else r

/-- A migration starts: PROMOTE_PENDING records of the line become MIGRATING. -/
def startRecords (line : Nat) : List ErrRecord → List ErrRecord := restated line (· = .promotePending) .migrating

/-- A migration is abandoned: MIGRATING and PROMOTE_PENDING records of the line become OPEN. -/
def reopenRecords (line : Nat) : List ErrRecord → List ErrRecord :=
  restated line (fun st => st = .promotePending || st = .migrating) .opened

/-- A migration completes: records of the line that are not SPARED become SPARED. -/
def spareRecords (line : Nat) : List ErrRecord → List ErrRecord := restated line (· ≠ .spared) .spared

/-! ### Starting -/

/-- Whether a line holds the word of a lock, or of a locked read whose grant has not ended (R116). -/
def State.lineLocked (s : State) (line : Nat) : Bool :=
  s.lock.any (fun l => lineOf l.address = line) ||
    match s.grant with
    | some ⟨.foreground a _ _ true, _⟩ => lineOf a = line
    | _ => false

/-- The line of the oldest PROMOTE_PENDING record whose line is free of the lock (R117). -/
def State.pendingLine (s : State) : Option Nat :=
  (s.records.find? fun r => r.state = .promotePending && !s.lineLocked (lineOf r.address)).map fun r =>
    lineOf r.address

/-- Whether the engine may start by itself: IDLE, the fill DONE, no system reset in progress (R116). -/
def State.mayStart (s : State) : Bool := s.migration.isNone && !s.fill.filling && !s.resetInProgress

/-- The source of a line's copy: its ACTIVE slot, or the original (R117). -/
def sourceOf (map : PerSlot SpareEntry) (line : Nat) : Location :=
  match activeSlot map line with
  | some p => .slot p
  | none => .original

/-- The start of a migration of a line into a slot (R117). -/
def State.startMigration (s : State) (line : Nat) (origin : Origin) (n : Fin 8) : State :=
  { s with
    spareMap := s.spareMap.set n (.copying line 0 origin (activeSlot s.spareMap line)),
    migration := some ⟨n, sourceOf s.spareMap line, .read, none⟩,
    records := startRecords line s.records }

/-- Up to `n` lines found without a FREE slot are abandoned before their start, oldest first (R118). -/
def State.releaseLines : Nat → State → State
  | 0, s => s
  | n + 1, s =>
    match s.pendingLine with
    | none => s
    | some line => releaseLines n ({ s with records := reopenRecords line s.records }.occur .spareExhausted)

/-- MIGRATION_START (R116 to R118). -/
def execMigrationStart (s : State) : Host.Outcome State Fault Refusal :=
  if s.mayStart then
    match s.pendingLine with
    | none => .next s
    | some line =>
      match freeSlot s.spareMap with
      | some n => .next (s.startMigration line .promotion n).settle
      | none => .next (State.releaseLines s.records.length s).settle
  else .next s

/-! ### The copy step -/

/-- The held word a READ grant forms (R119). -/
def heldWord (w : StoredWord) : StoredWord := if (decode w).good then encoded (decode w).data else marked w

/-- The fault of a background detection (R119, R141). -/
def backgroundFault : Detected → FaultSource
  | .corrected => .corrected
  | .uncorrectable => .backgroundUncorrectable
  | .poisoned => .backgroundUncorrectable

/-- The engine holds the word a READ grant formed; the WRITE is due (R119). -/
def State.hold (s : State) (w : StoredWord) : State :=
  { s with migration := s.migration.map fun m => { m with stepDue := .write, held := some w } }

/-- The engine's VERIFY is due (R120). -/
def State.verifyDue (s : State) : State :=
  { s with migration := s.migration.map fun m => { m with stepDue := .verify } }

/-- MIGRATION_READ (R119; R132 for a grant that a system reset has abandoned: the held word is discarded). -/
def execMigrationRead (upset : Upset) (s : State) : Host.Outcome State Fault Refusal :=
  match s.grant with
  | some ⟨.migrationRead a loc location, orphan⟩ =>
    let t := s.opened loc upset
    let w := t.mem.read loc
    let r := t.directReport (decode w) a location .migration (fun _ => .moved) backgroundFault
    .next (if orphan then r else r.hold (heldWord w)).settle
  | _ => .next s

/-- MIGRATION_WRITE (R120, R132). -/
def execMigrationWrite (s : State) : Host.Outcome State Fault Refusal :=
  match s.grant with
  | some ⟨.migrationWrite loc w, orphan⟩ =>
    let r := ({ s with grant := none } : State).store loc w
    .next (if orphan then r else r.verifyDue).settle
  | _ => .next s

/-- The map at a completion: the new slot ACTIVE, a previous slot RETIRED (R124). -/
def completedMap (map : PerSlot SpareEntry) (n : Fin 8) (line : Nat) (origin : Origin) (previous : Option (Fin 8)) :
    PerSlot SpareEntry :=
  (previous.elim map fun p => map.set p .retired).set n (.active line origin)

/-- The migration completes (R124). -/
def State.completeMigration (s : State) (n : Fin 8) (line : Nat) (origin : Origin) (previous : Option (Fin 8)) :
    State :=
  { s with
    spareMap := completedMap s.spareMap n line origin previous,
    migration := none,
    records := spareRecords line s.records }

/-- A VERIFY that finds the words equal: the cursor rises by one, and at 8 the migration completes (R121). -/
def State.verified (s : State) (n : Fin 8) (line cursor : Nat) (origin : Origin) (previous : Option (Fin 8)) : State :=
  if cursor + 1 < 8 then
    { s with
      spareMap := s.spareMap.set n (.copying line (cursor + 1) origin previous),
      migration := s.migration.map fun m => { m with stepDue := .read, held := none } }
  else s.completeMigration n line origin previous

/-- The copy restarts at cursor 0 in a slot (R122). -/
def State.restart (s : State) (map : PerSlot SpareEntry) (k : Fin 8) (line : Nat) (origin : Origin)
    (previous : Option (Fin 8)) : State :=
  { s with
    spareMap := map.set k (.copying line 0 origin previous),
    migration := s.migration.map fun m => { m with slot := k, stepDue := .read, held := none } }

/-- A VERIFY that finds them different: the slot is RETIRED, and the copy restarts in the lowest FREE slot or is
abandoned (R122, R123). -/
def State.verifyFailed (s : State) (n : Fin 8) (line : Nat) (origin : Origin) (previous : Option (Fin 8)) : State :=
  let retired := s.spareMap.set n .retired
  match freeSlot retired with
  | some k =>
    (s.restart retired k line origin previous).occur .migrationFailed
  | none =>
    ({ s with spareMap := retired, migration := none, records := reopenRecords line s.records }.occur
      .migrationFailed).occur .spareExhausted

/-- The end of a VERIFY grant for the copy in progress (R121, R122). -/
def State.endVerify (s : State) (n : Fin 8) (equal : Bool) : State :=
  match s.spareMap.get n with
  | .copying line cursor origin previous =>
    if equal then s.verified n line cursor origin previous else s.verifyFailed n line origin previous
  | _ => s

/-- The slot of a VERIFY that a system reset has abandoned and that found it different: now FREE, it becomes RETIRED
(R132). A slot that a new migration has taken since is left to the new copy's own VERIFY: the model's choice (log 27).
-/
def SpareEntry.retiredIfFree : SpareEntry → SpareEntry
  | .free => .retired
  | e => e

/-- The end of a VERIFY grant that a system reset has abandoned: words that differ retire the slot and raise
MIGRATION_FAILED, whatever has come since (R8, R132). -/
def State.endOrphanVerify (s : State) (n : Fin 8) (equal : Bool) : State :=
  if equal then s
  else { s with spareMap := s.spareMap.set n (s.spareMap.get n).retiredIfFree }.occur .migrationFailed

/-- MIGRATION_VERIFY (R121 to R124, R132). The comparison is exact, all 40 bits. -/
def execMigrationVerify (upset : Upset) (s : State) : Host.Outcome State Fault Refusal :=
  match s.grant with
  | some ⟨.migrationVerify n loc w, orphan⟩ =>
    let t := s.opened loc upset
    let equal : Bool := t.mem.read loc = w
    .next (if orphan then t.endOrphanVerify n equal else t.endVerify n equal).settle
  | _ => .next s

end Sys2Proof.Machine
end

