-- ==== Sys2Proof/Machine/ScrubOps.lean ====
section
/-! DEFINITION. The Scrub Engine's word, the tick and the two expiries (spec/08, R141, R144 to R148;
spec/05, R82, R83). -/

namespace Sys2Proof.Machine

/-! ### The word -/

/-- The cursors advance (R142). -/
def State.advanceScrub (s : State) : State :=
  { s with scrub := s.scrub.advance s.settings s.straps.visibleLines }

/-- The scrub STOPPED; cursors, accumulator and counts are kept (R145, R148). -/
def Scrub.stop (sc : Scrub) : Scrub := { sc with run := .stopped }

/-- The stored word a scrub leaves, from the word it reads (R141). -/
def scrubbedWord (w : StoredWord) : StoredWord :=
  match (decode w).outcome with
  | .clean => w
  | .corrected => encoded (decode w).data
  | .uncorrectable => marked w
  | .poisoned => w

/-- The repair value of a scrub detection's arrival (R141). -/
def scrubRepair (kind : Detected) : Repair := if kind = .corrected then .direct else .none

/-- The arrival and the occurrence of a scrub's decode; a word already POISONED is not faulted again (R141). The arrival
of a CORRECTED word carries DIRECT from a grant that a system reset leaves to finish too: the model's choice (log 32),
since R94 gives the arrival of such a decode NONE and R141 gives it DIRECT. -/
def State.scrubReport (s : State) (d : Decoded) (a : Nat) (location : Location) : State :=
  match d.outcome with
  | .poisoned => s.arrive (arrivalOf d .poisoned a location .scrub .none false)
  | .clean | .corrected | .uncorrectable => s.directReport d a location .scrub scrubRepair backgroundFault

/-- A SCRUB_STOP that waits is answered, the scrub STOPPED; otherwise the scrub pauses if the mode is HALTED as the
grant ends (R145, R146). Where a RELEASE_MODE has lowered the mode before that, it goes on without a pause: the model's
choice (log 29). -/
def State.endScrubGrant (s : State) : State :=
  if s.stopWaits then { s with scrub := s.scrub.stop }.finish .ok [] else s.pauseIfHalted

/-- SCRUB_WORD (R141, R142, R145, R146; R148 for a grant that a system reset has abandoned: the cursors are kept). The
report is made while the grant is still in progress, so that a rise to HALTED pauses the scrub after this word. -/
def execScrubWord (upset : Upset) (s : State) : Host.Outcome State Fault Refusal :=
  match s.grant with
  | some ⟨.scrub a loc location, orphan⟩ =>
    let m := s.mem.disturbed loc upset
    let w := m.read loc
    let t := { s with mem := if scrubbedWord w = w then m else m.write loc (scrubbedWord w) }.scrubReport (decode w) a
      location
    let u := { (if orphan then t else t.advanceScrub) with grant := none }
    .next u.endScrubGrant.settle
  | _ => .next s

/-! ### Expiries and the tick -/

/-- The expiry of the hold timer: the lock ends and LOCK_FAULT is raised (R83). -/
def State.expireLock (s : State) : State := { s with lock := none }.occur .lockFault

/-- Whether the expiry of the hold timer is due. -/
def State.lockExpiryDue (s : State) : Bool := s.lock.any fun l => l.expiryDue

/-- The expiry of the scrub interval: lines left is SCRUB_BLOCK and the word at the cursors is due (R144). -/
def Scrub.expired (sc : Scrub) (block : Nat) : Scrub :=
  match sc.run with
  | .running mode (.waiting _ true) => { sc with run := .running mode (.sweeping block) }
  | _ => sc

/-- Whether the expiry of the scrub interval is due. -/
def Scrub.expiryDue (sc : Scrub) : Bool :=
  match sc.run with
  | .running _ (.waiting _ due) => due
  | _ => false

/-- The expiry of the scrub interval taken (R144). -/
def State.expireInterval (s : State) : State := { s with scrub := s.scrub.expired s.settings.scrubBlock }

/-- The lock after a tick: a present hold time falls by one; the tick that brings it to 0 makes the expiry due (R82,
R83, log 2). -/
def Lock.ticked (l : Lock) : Lock :=
  match l.remaining with
  | none => l
  | some n => if n ≤ 1 then { l with expiryDue := true } else { l with remaining := some (n - 1) }

/-- The scrub after a tick: the interval falls by one; the tick that brings it to 0 makes the expiry due (R144, R146,
log 2). -/
def Scrub.ticked (sc : Scrub) : Scrub :=
  match sc.run with
  | .running mode (.waiting n due) =>
    { sc with run := .running mode (if n ≤ 1 then .waiting n true else .waiting (n - 1) due) }
  | _ => sc

/-- What a tick that ends finds still due is taken first (log 2), the lock's expiry before the interval's: which of the
two goes first is the model's choice (log 31), since R83 and R146 let either come first. -/
def State.takeExpiries (s : State) : State :=
  (if s.lockExpiryDue then s.expireLock else s).expireInterval

/-- TICK: the tick in progress ends and the next begins with the TICK_DIVISOR that then stands (R82, R144, R147). -/
def execTick (s : State) : Host.Outcome State Fault Refusal :=
  let t := s.takeExpiries
  .next
    { t with
      lock := t.lock.map Lock.ticked, scrub := t.scrub.ticked, tickLength := t.settings.tickDivisor }.settle

/-- LOCK_HOLD_EXPIRY (R83). -/
def execLockHoldExpiry (s : State) : Host.Outcome State Fault Refusal :=
  if s.lockExpiryDue then .next s.expireLock.settle else .next s

/-- SCRUB_INTERVAL_EXPIRY (R144). -/
def execScrubIntervalExpiry (s : State) : Host.Outcome State Fault Refusal :=
  if s.scrub.expiryDue then .next s.expireInterval.settle else .next s

end Sys2Proof.Machine
end

