-- ==== Sys2Proof/Machine/ResetOps.lean ====
section
/-! DEFINITION. Power-on and the system reset: what each block does (spec/02, R38, R39; spec/03, R57 to R59; spec/04,
R68, R77; spec/05, R90; spec/06, R112; spec/07, R131, R132; spec/08, R133, R134, R148; spec/09, R160, R161; spec/10,
R174). -/

namespace Sys2Proof.Machine

/-! ### Power-on -/

/-- The part as power is applied, before its first grant. What the array holds is new (log 5); what has left the part
and what waits on the queue of commands is kept (log 21). -/
def State.poweredOn (s : State) (straps : Straps) (rstN : Bool) : State :=
  { State.reset with
    rstN := rstN, straps := straps, mem := ⟨[], 0, s.mem.epoch + 1⟩, port := if rstN then .ready else .reset,
    grant := none, settings := .initial straps, upSent := s.upSent, svcSent := s.svcSent, pending := s.pending }

/-- POWER_ON: the fill has started, so the port is READY where RST_N is high (R39), and the fill's request is granted
(R64, R133). -/
def execPowerOn (straps : Straps) (rstN : Bool) (s : State) : Host.Outcome State Fault Refusal :=
  .next (s.poweredOn straps rstN).settle

/-! ### The system reset -/

/-- Whether a fill is to run (R134): PRESERVE clear, or FILLING, or a fill already due. -/
def State.fillToRun (s : State) : Bool := !s.straps.preserve || s.fill.filling || s.fill.due

/-- The queue at a system reset: discarded but for a DRAINING head where a fill is to run (R58), kept otherwise (R59);
no entry keeps a waiter (R55). -/
def resetQueue (discard : Bool) (q : List Entry) : List Entry :=
  (if discard then q.filter fun e => e.stage = .draining else q).map fun e => { e with waiter := false }

/-- A Spare Map entry at a system reset: COPYING becomes FREE (R132). -/
def SpareEntry.atReset : SpareEntry → SpareEntry
  | .copying _ _ _ _ => .free
  | e => e

/-- The records at a system reset: MIGRATING becomes PROMOTE_PENDING (R112). -/
def resetRecords (rs : List ErrRecord) : List ErrRecord :=
  rs.map fun r => if r.state = .migrating then { r with state := .promotePending } else r

/-- The grant in progress at a system reset is left to finish (R8); a prefetch's data is not kept (R77). -/
def orphaned (g : Option Grant) : Option Grant :=
  (detached (fun _ => true) g).map fun k => { k with orphan := true }

/-- The fill at a system reset (R134): where one is to run it begins at once when the array is free, and is due
otherwise. -/
def State.resetFill (s : State) : Fill :=
  if s.fillToRun then
    if s.grant.isNone then ⟨true, 0, false⟩ else { s.fill with due := true }
  else s.fill

/-- A system reset acts on every block (R38, R58, R59, R68, R77, R90, R112, R132, R134, R148, R160). The link, the
settings and the command in execution go on (R174). -/
def State.systemReset (s : State) : State :=
  { s with
    port := .reset,
    txn := none,
    lock := none,
    queue := resetQueue s.fillToRun s.queue,
    readAhead := ⟨.empty, .empty⟩,
    grant := orphaned s.grant,
    passOver := ⟨0, 0, 0⟩,
    spareMap := .make fun n => (s.spareMap.get n).atReset,
    migration := none,
    records := resetRecords s.records,
    fill := s.resetFill,
    scrub := s.scrub.stop,
    faults := s.faults.systemReset s.settings.reactions,
    resetInProgress := true }

/-- SYSTEM_RESET: RST_N falls, or the reset of a RESET_PART that is due takes effect, a fall followed at once by the
line's own level (R134, R181). -/
def execSystemReset (cause : ResetCause) (s : State) : Host.Outcome State Fault Refusal :=
  match cause with
  | .rstnFalls => if s.rstN then .next { s.systemReset with rstN := false }.settle else .next s
  | .resetPart => if s.resetDue then .next { s.systemReset with resetDue := false }.settle else .next s

/-- RST_N_RISES: after power-on the port leaves RESET at once, the fill having started at power-on (R39, R133); a system
reset in progress completes by its own step (R38, R59). -/
def execRstNRises (s : State) : Host.Outcome State Fault Refusal :=
  if s.rstN then .next s
  else
    .next
      { s with
        rstN := true,
        port := if s.port = .reset ∧ s.resetInProgress = false then .ready else s.port }

/-- Whether the system reset in progress is over: RST_N high, the queue empty, no fill still to begin (R38, R59,
R134). -/
def State.resetOver (s : State) : Bool :=
  s.resetInProgress && s.rstN && s.queue.isEmpty && !s.fill.due

/-- RESET_COMPLETES (R38, R59). -/
def execResetCompletes (s : State) : Host.Outcome State Fault Refusal :=
  if s.resetOver then .next { s with resetInProgress := false, port := .ready }.settle else .next s

/-- FILL_BEGINS: the fill that is due becomes FILLING with watermark 0 once the array is free (R134). -/
def execFillBegins (s : State) : Host.Outcome State Fault Refusal :=
  if s.fill.due ∧ s.grant = none then .next { s with fill := ⟨true, 0, false⟩ }.settle else .next s

end Sys2Proof.Machine
end

