-- ==== Sys2Proof/Machine/LinkRows.lean ====
section
/-! DEFINITION. The commands of the service link: the receiver, the receive FIFO, the parser and the transmitter
(spec/10, R164 to R172). -/

namespace Sys2Proof.Machine

/-! ### The receiver -/

/-- The frame timer restarted, if it runs (R169). -/
def Link.restartTimer (l : Link) : Link := { l with frameTimer := l.frameTimer.map fun _ => 0 }

/-- SVC_RX has fallen while the receiver was idle: it begins counting bit times at the timing that now governs, its
accumulator at 0, and the frame timer restarts (R164, R165, R169). A majority of high samples is a false start. -/
def Link.startBit (l : Link) (samples : BitVec 3) : Link :=
  { l with
    receiver := if majority samples then .idle else .receiving (disagree samples),
    rxAcc := 0,
    rxTiming := l.inUse }.restartTimer

/-- START_BIT_DETECTED (R165). -/
def execStartBitDetected (samples : BitVec 3) (s : State) : Host.Outcome State Fault Refusal :=
  if s.link.receiver = .idle then .next { s with link := s.link.startBit samples } else .next s

/-- An item delivered to the receive FIFO (R166). -/
def Link.deliver (l : Link) (item : FifoItem) : Link :=
  if l.fifo.length < 4 then { l with fifo := l.fifo ++ [item] } else { l with overrun := true }

/-- The item the end of a character delivers, a break excepted (R165). -/
def receivedItem (noise : Bool) (samples : BitVec 30) : FifoItem :=
  if stopOf samples then .character (byteOf samples) (markOf samples) (noise || noisy samples) else .framingError

/-- The bit times a character takes: eleven, and one more where the receiver looked for a break (R163, R165). -/
def characterBits (samples : BitVec 30) : Nat := if allLow samples then 12 else 11

/-- The end of a character that is no break (R165, R166, R169). -/
def Link.endCharacter (l : Link) (noise : Bool) (samples : BitVec 30) : Link :=
  ({ l with receiver := .idle, rxAcc := accAfter l.rxTiming (characterBits samples) }.deliver
    (receivedItem noise samples)).restartTimer

/-- CHARACTER_RECEIVED (R165). -/
def execCharacterReceived (samples : BitVec 30) (s : State) : Host.Outcome State Fault Refusal :=
  match s.link.receiver with
  | .receiving noise => .next { s with link := s.link.endCharacter noise samples }
  | _ => .next s

/-- RECEIVER_RETURNS_TO_IDLE: after a break the line has returned high, after power-on it has been high for a character
time (R165). -/
def execReceiverReturnsToIdle (s : State) : Host.Outcome State Fault Refusal :=
  match s.link.receiver with
  | .powerUp | .afterBreak => .next { s with link := { s.link with receiver := .idle } }
  | _ => .next s

/-! ### The transmitter -/

/-- The characters of a response have gone out on SVC_TX, bit by bit, and the line is released; with the transmitter's
accumulator after them (R163, R164, R171). -/
def State.transmitted (s : State) (characters : List Byte) : State :=
  { s with
    svcSent := s.svcSent ++ [characters.flatMap sentBits],
    link := { s.link with txAcc := accAfter s.link.inUse (11 * characters.length), svcTx := .released } }

/-- A response has ended, in full or cut: the parser is in HUNT (R171, R172). -/
def State.endResponse (s : State) (characters : List Byte) (resetPart : Bool) : State :=
  let t := (s.transmitted characters).acknowledged resetPart
  { t with link := t.link.toHunt }

/-- RESPONSE_SENT (R171). -/
def execResponseSent (s : State) : Host.Outcome State Fault Refusal :=
  match s.link.parser with
  | .respond characters resetPart => .next (s.endResponse characters resetPart)
  | _ => .next s

/-! ### The break -/

/-- The part of a response that a break lets out: whole characters, at least one and never the last (R172, log 13). -/
def cutResponse (characters : List Byte) (sent : Nat) : List Byte :=
  characters.take (max 1 (min sent (characters.length - 1)))

/-- A break at the receiver and the FIFO (R165, R166). -/
def Link.broken (l : Link) : Link :=
  { l with receiver := .afterBreak, rxAcc := accAfter l.rxTiming 12, fifo := [], overrun := false }

/-- The response of the command in execution is withdrawn (R172). -/
def State.withdraw (s : State) : State :=
  { s with link := s.link.toHunt, executing := s.executing.map fun e => { e with withdrawn := true } }

/-- A break at the parser (R172). -/
def State.breakParser (s : State) (sent : Nat) : State :=
  match s.link.parser with
  | .hunt => s
  | .collect => { s with link := s.link.toHunt }
  | .execute => s.withdraw
  | .respond characters resetPart => s.endResponse (cutResponse characters sent) resetPart

/-- BREAK (R172): the twelfth bit time of a character that the receiver is in ends with the line still low (R165). -/
def execBreakReceived (sent : Nat) (s : State) : Host.Outcome State Fault Refusal :=
  match s.link.receiver with
  | .receiving _ =>
    if (Instr.breakReceived sent).wellFormed then .next ({ s with link := s.link.broken }.breakParser sent)
    else .next s
  | _ => .next s

/-! ### The parser -/

/-- The parser has taken the head item; where an overrun was pending, its marker takes the freed place (R166). -/
def Link.taken (l : Link) (rest : List FifoItem) : Link :=
  { l with fifo := if l.overrun then rest ++ [.overrun] else rest, overrun := false }

/-- Whether the byte of an address character names the station, as its own (`some false`) or by 63 (`some true`)
(R167). -/
def addressed? (station : BitVec 6) (byte : Byte) : Option Bool :=
  if byte.toNat = 63 then some true else if byte.toNat = station.toNat then some false else none

/-- A frame is begun: COLLECT, the buffer cleared, the frame timer restarted (R167, R169). -/
def Link.openFrame (l : Link) (broadcast noise : Bool) : Link :=
  { l with parser := .collect, frame := { Frame.empty with broadcast := broadcast, noise := noise }, frameTimer := some 0 }

/-- A character of the frame being collected that is no address character fills the field its position names; none
where it is a length above 32 (R168). -/
def Frame.fill (f : Frame) (byte : Byte) (noise : Bool) : Option Frame :=
  let g := { f with noise := f.noise || noise }
  match f.position with
  | .command => some { g with command := byte, position := .length }
  | .length =>
    if byte.toNat > 32 then none
    else some { g with length := byte.toNat, position := if byte.toNat = 0 then .checksum else .payload }
  | .payload =>
    some
      { g with
        payload := f.payload ++ [byte],
        position := if f.payload.length + 1 < f.length then .payload else .checksum }
  | .checksum => some { g with checksum := byte, position := .complete }
  | .complete => some f

/-- The frame buffer after a character: a complete frame waits without the frame timer (R168, R169). -/
def Link.fillFrame (l : Link) (byte : Byte) (noise : Bool) : Link :=
  match l.frame.fill byte noise with
  | none => l.toHunt
  | some f => { l with frame := f, frameTimer := if f.position = .complete then none else l.frameTimer }

/-- An item taken in HUNT (R167). -/
def Link.hunted (l : Link) (station : BitVec 6) : FifoItem → Link
  | .character byte true noise =>
    match addressed? station byte with
    | some broadcast => l.openFrame broadcast noise
    | none => l
  | .character _ false _ => l
  | .framingError => l
  | .overrun => l

/-- An item taken in COLLECT (R168). -/
def Link.collected (l : Link) (station : BitVec 6) : FifoItem → Link
  | .character byte true noise =>
    match addressed? station byte with
    | some broadcast => l.openFrame broadcast noise
    | none => l.toHunt
  | .character byte false noise => l.fillFrame byte noise
  | .framingError => l.toHunt
  | .overrun => l.toHunt

/-- PARSER_TAKES_ITEM: in HUNT, or in COLLECT while no complete frame waits (R167, R168, R170). A frame that is then
complete passes to its checks, if the Command Unit is free. -/
def execParserTakesItem (s : State) : Host.Outcome State Fault Refusal :=
  match s.link.parser, s.link.fifo with
  | .hunt, item :: rest => .next { s with link := (s.link.taken rest).hunted s.straps.station item }
  | .collect, item :: rest =>
    if s.link.frame.position = .complete then .next s
    else .next { s with link := (s.link.taken rest).collected s.straps.station item }.resumeFrame
  | _, _ => .next s

/-- FRAME_TIMER_EXPIRY (R169). -/
def execFrameTimerExpiry (s : State) : Host.Outcome State Fault Refusal :=
  if s.link.parser = .collect ∧ s.link.frameTimer.isSome = true then .next { s with link := s.link.toHunt }
  else .next s

end Sys2Proof.Machine
end

