-- ==== Sys2Proof/Machine/SettingOps.lean ====
section
/-! DEFINITION. The settings table: reading and writing an item by its code (spec/11, R182). -/

namespace Sys2Proof.Machine

/-- The source whose REACTION setting has an item code (R182). -/
def reactionSource (item : Byte) : Option FaultSource := FaultSource.all.find? fun src => src.item = item

/-- The encoding of a posting mode. -/
def PostingMode.encode : PostingMode → Nat
  | .posted => 0
  | .through => 1

/-- The encoding of a range policy. -/
def RangePolicy.encode : RangePolicy → Nat
  | .error => 0
  | .quiet => 1

/-- The value of the item with a code, encoded as the table gives; none where no item has the code (R182). -/
def Settings.value (st : Settings) (item : Byte) : Option Nat :=
  match item.toNat with
  | 0x01 => some st.posting.encode
  | 0x02 => some st.rangePolicy.encode
  | 0x03 => some st.guardLo.toNat
  | 0x04 => some st.guardHi.toNat
  | 0x05 => some (bitNat st.readAhead)
  | 0x06 => some st.lockLimit
  | 0x07 => some st.promoteThreshold
  | 0x08 => some (bitNat st.spareOnUncorrectable)
  | 0x09 => some st.escalate.toNat
  | 0x0A => some st.scrubStartLine
  | 0x0B => some st.scrubEndLine
  | 0x0C => some st.scrubBlock
  | 0x0D => some st.pacerBase
  | 0x0E => some st.pacerFraction
  | 0x0F => some st.tickDivisor
  | 0x10 => some st.linkDivisor
  | 0x11 => some st.linkFraction
  | _ => (reactionSource item).map fun src => (st.reactions.get src).rank

/-- Whether a value lies in a range. -/
def within (lo hi v : Nat) : Bool := decide (lo ≤ v) && decide (v ≤ hi)

/-- The settings with the item's value changed; none where no item has the code or the value is outside the item's range
(R182, check 1). -/
def Settings.put (st : Settings) (lines : Nat) (item : Byte) (v : Nat) : Option Settings :=
  match item.toNat with
  | 0x01 => if within 0 1 v then some { st with posting := if v = 0 then .posted else .through } else none
  | 0x02 => if within 0 1 v then some { st with rangePolicy := if v = 0 then .error else .quiet } else none
  | 0x03 => if within 0 0xFFFFFFFF v then some { st with guardLo := BitVec.ofNat 32 v } else none
  | 0x04 => if within 0 0xFFFFFFFF v then some { st with guardHi := BitVec.ofNat 32 v } else none
  | 0x05 => if within 0 1 v then some { st with readAhead := decide (v = 1) } else none
  | 0x06 => if within 1 255 v then some { st with lockLimit := v } else none
  | 0x07 => if within 1 15 v then some { st with promoteThreshold := v } else none
  | 0x08 => if within 0 1 v then some { st with spareOnUncorrectable := decide (v = 1) } else none
  | 0x09 => if within 0 0x1FF v then some { st with escalate := BitVec.ofNat 9 v } else none
  | 0x0A => if within 0 (lines - 1) v then some { st with scrubStartLine := v } else none
  | 0x0B => if within 0 (lines - 1) v then some { st with scrubEndLine := v } else none
  | 0x0C => if within 1 256 v then some { st with scrubBlock := v } else none
  | 0x0D => if within 1 65535 v then some { st with pacerBase := v } else none
  | 0x0E => if within 0 7 v then some { st with pacerFraction := v } else none
  | 0x0F => if within 1 255 v then some { st with tickDivisor := v } else none
  | 0x10 => if within 16 65535 v then some { st with linkDivisor := v } else none
  | 0x11 => if within 0 7 v then some { st with linkFraction := v } else none
  | _ =>
    match reactionSource item, Reaction.ofRank v with
    | some src, some r => some { st with reactions := st.reactions.set src r }
    | _, _ => none

/-- The items of the scrub region and block, which do not change while the scrub runs (R138, R182). -/
def isScrubItem (item : Byte) : Bool := within 0x0A 0x0C item.toNat

/-- The items of the scrub region, whose end is never below its start (R138). -/
def isRegionItem (item : Byte) : Bool := within 0x0A 0x0B item.toNat

/-- The status of a SET_SETTING and the settings after it: the three checks in their order (R182). -/
def State.putSetting (s : State) (item : Byte) (value : Word) : Status × Settings :=
  match s.settings.put s.straps.visibleLines item value.toNat with
  | none => (.badArgument, s.settings)
  | some st =>
    if isScrubItem item && s.scrub.run ≠ .stopped then (.busy, s.settings)
    else if isRegionItem item && decide (st.scrubEndLine < st.scrubStartLine) then (.badArgument, s.settings)
    else (.ok, st)

end Sys2Proof.Machine
end

