-- ==== Sys2Proof/Machine/Service.lean ====
section
/-! DEFINITION. The service commands (spec/11, R175 to R182). Each row is the Command Unit carrying out the command it
has been handed; where it has been handed no such command the row leaves the state as it is (log 23). -/

namespace Sys2Proof.Machine

/-- The Command Unit carries out the command it has been handed (R175). -/
def State.serve (s : State) (c : SvcCommand) (f : State → State) : Host.Outcome State Fault Refusal :=
  if s.handed c then .next (f s) else .next s

/-! ### Reports -/

/-- IDENTIFY (R176). -/
def execIdentify (s : State) : Host.Outcome State Fault Refusal :=
  s.serve .identify fun t => t.finish .ok (identifyBytes t.straps)

/-- READ_STATUS (R176). -/
def execReadStatus (s : State) : Host.Outcome State Fault Refusal :=
  s.serve .readStatus fun t => t.finish .ok t.statusBytes

/-- READ_FAULTS (R162, R176). -/
def execReadFaults (s : State) : Host.Outcome State Fault Refusal :=
  s.serve .readFaults fun t => t.finish .ok t.faultBytes

/-- READ_SPARE_MAP (R176, R184). -/
def execReadSpareMap (s : State) : Host.Outcome State Fault Refusal :=
  s.serve .readSpareMap fun t => t.finish .ok (spareMapBytes t.spareMap)

/-! ### Clearing and release -/

/-- Whether a mask names a source that is none of the nine (R177). -/
def badMask (mask : BitVec 16) : Bool := decide (512 ≤ mask.toNat)

/-- The sources a mask selects cleared (R158). -/
def State.clearFaults (s : State) (mask : BitVec 16) : State :=
  { s with faults := s.faults.clear s.settings.reactions mask }

/-- CLEAR_FAULTS (R158, R177). -/
def execClearFaults (mask : BitVec 16) (s : State) : Host.Outcome State Fault Refusal :=
  s.serve (.clearFaults mask) fun t =>
    if badMask mask then t.finish .badArgument [] else (t.clearFaults mask).finish .ok []

/-- The scrub when the device mode has left HALTED (R146). -/
def State.resumeUnlessHalted (s : State) : State :=
  { s with scrub := if s.faults.mode = .halted then s.scrub else s.scrub.resume }

/-- The device mode lowered to the demanded level (R156), with what that does to the scrub (R146). -/
def State.releaseMode (s : State) : State := { s with faults := s.faults.release }.resumeUnlessHalted

/-- RELEASE_MODE (R156, R177). -/
def execReleaseMode (s : State) : Host.Outcome State Fault Refusal :=
  s.serve .releaseMode fun t => (t.releaseMode.finish .ok []).settle

/-! ### Records -/

/-- The bytes of up to `n` records from an index on (R178, R183). -/
def recordBytes (rs : List ErrRecord) (index n : Nat) : List Byte :=
  ((rs.drop index).take n).zipIdx index |>.flatMap fun p => p.1.bytes p.2

/-- Whether a READ_RECORDS names records that are there (R108). -/
def recordsThere (rs : List ErrRecord) (index count : Byte) : Bool :=
  (count = 1 || count = 2) && decide (index.toNat + count.toNat ≤ rs.length)

/-- READ_RECORDS (R108, R178). -/
def execReadRecords (index count : Byte) (s : State) : Host.Outcome State Fault Refusal :=
  s.serve (.readRecords index count) fun t =>
    if recordsThere t.records index count then t.finish .ok (recordBytes t.records index.toNat count.toNat)
    else t.finish .badArgument []

/-- The table without the record of an address. -/
def withoutRecord (address : Nat) (rs : List ErrRecord) : List ErrRecord := rs.filter fun r => r.address ≠ address

/-- CLOSE_RECORD (R109, R178). -/
def execCloseRecord (address : BitVec 24) (s : State) : Host.Outcome State Fault Refusal :=
  s.serve (.closeRecord address) fun t =>
    match t.records.find? (fun r => r.address = address.toNat) with
    | none => t.finish .badArgument []
    | some r =>
      if r.pinned then t.finish .refused []
      else { t with records := withoutRecord address.toNat t.records }.finish .ok []

/-- CLEAR_RECORDS (R110, R178). -/
def execClearRecords (s : State) : Host.Outcome State Fault Refusal :=
  s.serve .clearRecords fun t => { t with records := t.records.filter ErrRecord.pinned }.finish .ok []

/-! ### Engines -/

/-- Whether SPARE_LINE finds the part not ready (R129). -/
def State.spareBusy (s : State) (line : Nat) : Bool :=
  s.resetInProgress || s.fill.filling || s.migration.isSome || s.lineLocked line

/-- SPARE_LINE (R129, R179). -/
def execSpareLine (line : BitVec 24) (s : State) : Host.Outcome State Fault Refusal :=
  s.serve (.spareLine line) fun t =>
    if t.straps.visibleLines ≤ line.toNat then t.finish .badArgument []
    else if t.spareBusy line.toNat then t.finish .busy []
    else
      match freeSlot t.spareMap with
      | none => t.finish .refused []
      | some n => ((t.startMigration line.toNat .command n).finish .ok [byteNat n.val]).settle

/-- The mode an argument of SCRUB_START names (R179). -/
def scrubMode (mode : Byte) : Option ScrubMode :=
  match mode.toNat with
  | 0 => some .single
  | 1 => some .continuous
  | _ => none

/-- Whether SCRUB_START finds the part not ready (R140). -/
def State.scrubBusy (s : State) : Bool := s.scrub.run ≠ .stopped || s.fill.filling || s.resetInProgress

/-- A run started (R140). -/
def State.startScrub (s : State) (mode : ScrubMode) : State :=
  { s with
    scrub :=
      { s.scrub with
        run :=
          if s.faults.mode = .halted then .paused mode (.sweeping s.settings.scrubBlock)
          else .running mode (.sweeping s.settings.scrubBlock),
        line := s.settings.scrubStartLine, word := 0, accumulator := 0, skipped := 0 } }

/-- SCRUB_START (R140, R179). -/
def execScrubStart (mode : Byte) (s : State) : Host.Outcome State Fault Refusal :=
  s.serve (.scrubStart mode) fun t =>
    match scrubMode mode with
    | none => t.finish .badArgument []
    | some m => if t.scrubBusy then t.finish .busy [] else ((t.startScrub m).finish .ok []).settle

/-- SCRUB_STOP (R145, R179): where a SCRUB grant is in progress the command waits for its end. A grant that a system
reset has left to finish is none of the present run's, so the scrub is STOPPED at once and the command alone waits (log
28). -/
def execScrubStop (s : State) : Host.Outcome State Fault Refusal :=
  s.serve .scrubStop fun t =>
    if t.scrubGranted then t.waitForGrant
    else
      let u := { t with scrub := t.scrub.stop }
      if t.scrubInProgress then u.waitForGrant else (u.finish .ok []).settle

/-- INSPECT (R180): the SERVICE request is raised and held. -/
def execInspect (location : BitVec 24) (s : State) : Host.Outcome State Fault Refusal :=
  s.serve (.inspect location) fun t =>
    if t.straps.populated ≤ location.toNat then t.finish .badArgument []
    else if t.resetInProgress then t.finish .busy []
    else t.waitForGrant.settle

/-- RESET_PART (R181): the reset itself is due at the end of the response, or of a broadcast command's execution. -/
def execResetPart (s : State) : Host.Outcome State Fault Refusal :=
  s.serve .resetPart fun t => t.finish .ok []

/-! ### Settings -/

/-- GET_SETTING (R182). -/
def execGetSetting (item : Byte) (s : State) : Host.Outcome State Fault Refusal :=
  s.serve (.getSetting item) fun t =>
    match t.settings.value item with
    | none => t.finish .badArgument []
    | some v => t.finish .ok (leBytes 4 v)

/-- SET_SETTING, of an item without a row of its own (R182). -/
def execSetSetting (item : Byte) (value : Word) (s : State) : Host.Outcome State Fault Refusal :=
  if isReactionItem item then .next s
  else
    s.serve (.setSetting item value) fun t =>
      { t with settings := (t.putSetting item value).2 }.finish (t.putSetting item value).1 []

/-- A configured reaction changed, at the settings and at the Fault Unit, with what a rise to HALTED does to the scrub
(R146, R154, R155). -/
def State.react (s : State) (source : FaultSource) (r : Reaction) : State :=
  { s with
    settings := { s.settings with reactions := s.settings.reactions.set source r },
    faults := s.faults.react source r }.pauseIfHalted

/-- SET_SETTING of REACTION_n (R154, R182). -/
def execSetReaction (source : FaultSource) (value : Word) (s : State) : Host.Outcome State Fault Refusal :=
  s.serve (.setSetting source.item value) fun t =>
    match Reaction.ofRank value.toNat with
    | none => t.finish .badArgument []
    | some r => ((t.react source r).finish .ok []).settle

end Sys2Proof.Machine
end

