-- ==== Sys2Proof/Machine/Dispatch.lean ====
section
/-! DEFINITION. exec: one arm per command. -/

namespace Sys2Proof.Machine

/-- The effect of a command on everything but the queue of commands. -/
def exec (i : Instr) (s : State) : Host.Outcome State Fault Refusal :=
  match i with
  | .powerOn straps rstN => Sys2Proof.Machine.execPowerOn straps rstN s
  | .systemReset cause => Sys2Proof.Machine.execSystemReset cause s
  | .rstNRises => Sys2Proof.Machine.execRstNRises s
  | .resetCompletes => Sys2Proof.Machine.execResetCompletes s
  | .fillBegins => Sys2Proof.Machine.execFillBegins s
  | .readRequest address count privileged => Sys2Proof.Machine.execReadRequest address count privileged s
  | .writeRequest address beats privileged => Sys2Proof.Machine.execWriteRequest address beats privileged s
  | .lockedReadRequest address count privileged => Sys2Proof.Machine.execLockedReadRequest address count privileged s
  | .lockedWriteRequest address beats privileged => Sys2Proof.Machine.execLockedWriteRequest address beats privileged s
  | .writeInsertion => Sys2Proof.Machine.execWriteInsertion s
  | .writeCompletion => Sys2Proof.Machine.execWriteCompletion s
  | .readBeatRetaken => Sys2Proof.Machine.execReadBeatRetaken s
  | .foregroundRead upset => Sys2Proof.Machine.execForegroundRead upset s
  | .lockedReadDecode upset => Sys2Proof.Machine.execLockedReadDecode upset s
  | .drainEnd upset => Sys2Proof.Machine.execDrainEnd upset s
  | .prefetchRead upset => Sys2Proof.Machine.execPrefetchRead upset s
  | .fillWrite => Sys2Proof.Machine.execFillWrite s
  | .migrationStart => Sys2Proof.Machine.execMigrationStart s
  | .migrationRead upset => Sys2Proof.Machine.execMigrationRead upset s
  | .migrationWrite => Sys2Proof.Machine.execMigrationWrite s
  | .migrationVerify upset => Sys2Proof.Machine.execMigrationVerify upset s
  | .scrubWord upset => Sys2Proof.Machine.execScrubWord upset s
  | .tick => Sys2Proof.Machine.execTick s
  | .lockHoldExpiry => Sys2Proof.Machine.execLockHoldExpiry s
  | .scrubIntervalExpiry => Sys2Proof.Machine.execScrubIntervalExpiry s
  | .characterReceived samples => Sys2Proof.Machine.execCharacterReceived samples s
  | .breakReceived sent => Sys2Proof.Machine.execBreakReceived sent s
  | .parserTakesItem => Sys2Proof.Machine.execParserTakesItem s
  | .frameTimerExpiry => Sys2Proof.Machine.execFrameTimerExpiry s
  | .responseSent => Sys2Proof.Machine.execResponseSent s
  | .identify => Sys2Proof.Machine.execIdentify s
  | .readStatus => Sys2Proof.Machine.execReadStatus s
  | .readFaults => Sys2Proof.Machine.execReadFaults s
  | .clearFaults mask => Sys2Proof.Machine.execClearFaults mask s
  | .releaseMode => Sys2Proof.Machine.execReleaseMode s
  | .readRecords index count => Sys2Proof.Machine.execReadRecords index count s
  | .closeRecord address => Sys2Proof.Machine.execCloseRecord address s
  | .clearRecords => Sys2Proof.Machine.execClearRecords s
  | .readSpareMap => Sys2Proof.Machine.execReadSpareMap s
  | .spareLine line => Sys2Proof.Machine.execSpareLine line s
  | .scrubStart mode => Sys2Proof.Machine.execScrubStart mode s
  | .scrubStop => Sys2Proof.Machine.execScrubStop s
  | .getSetting item => Sys2Proof.Machine.execGetSetting item s
  | .setSetting item value => Sys2Proof.Machine.execSetSetting item value s
  | .setReaction source value => Sys2Proof.Machine.execSetReaction source value s
  | .inspect location => Sys2Proof.Machine.execInspect location s
  | .inspectRead upset => Sys2Proof.Machine.execInspectRead upset s
  | .resetPart => Sys2Proof.Machine.execResetPart s
  | .startBitDetected samples => Sys2Proof.Machine.execStartBitDetected samples s
  | .receiverReturnsToIdle => Sys2Proof.Machine.execReceiverReturnsToIdle s

end Sys2Proof.Machine
end

