-- ==== Sys2Proof/Safety.lean ====
section
/-! DEFINITION. What the spec says of the part in every state: the invariants of its blocks, and the frame of the
prefetch's and the arbiter's work at the end of an event. -/

namespace Sys2Proof.Machine

/-! ### The frame of the arbiter -/

/-- A queue with its stages left out of account. -/
def unstaged (q : List Entry) : List Entry := q.map fun e => { e with stage := .waiting }

/-- `t` is `s` but for the grant in progress, the pass-over counts, the stage of the queue's head, the read-ahead buffer
and the scrub record, which the skip of a word moves on. -/
def GrantsApart (s t : State) : Prop :=
  t = { s with queue := t.queue, readAhead := t.readAhead, grant := t.grant, passOver := t.passOver, scrub := t.scrub } ∧
    unstaged t.queue = unstaged s.queue

/-! ### Invariants -/

/-- Two entries that are WAITING for one word. -/
def clash (e f : Entry) : Bool := e.address = f.address && e.stage = .waiting && f.stage = .waiting

/-- The queue holds at most 8 entries, never two WAITING entries for one word, no DRAINING entry but at the head, no
entry with an empty lane set, and REPAIR and POISON entries with all four lanes (R40 to R42). -/
abbrev QueueOk (q : List Entry) : Prop :=
  q.length ≤ 8 ∧ q.Pairwise (fun e f => clash e f = false) ∧ (∀ e ∈ q.tail, e.stage = .waiting) ∧
    (∀ e ∈ q, e.lanes ≠ 0) ∧ (∀ e ∈ q, e.kind = .repair ∨ e.kind = .poison → e.lanes = .full)

/-- The table holds at most 16 records, never two of one word address, with counts 1 to 255 (R91, R92). -/
abbrev RecordsOk (rs : List ErrRecord) : Prop :=
  rs.length ≤ 16 ∧ rs.Pairwise (fun r u => r.address ≠ u.address) ∧ ∀ r ∈ rs, 1 ≤ r.count ∧ r.count ≤ 255

/-- One source: its effective reaction is at least its configured one, which it is where the source is CLEAR; its count
is 0 exactly where it is CLEAR, and at most 15; a SET source is at NOTE or above (R149, R152, R158). -/
abbrev SourceOk (r : FaultRecord) (configured : Reaction) : Prop :=
  configured.rank ≤ r.effective.rank ∧ (r.count = 0 ↔ r.set = false) ∧ r.count ≤ 15 ∧
    (r.set = false → r.effective = configured) ∧ (r.set = true → 1 ≤ r.effective.rank)

/-- Every source is as `SourceOk` says, the device mode is not below the level any of them demands, and ALERT_N is
asserted exactly where one of them is SET at ALERT or above (R149, R155, R157). -/
abbrev FaultsOk (fu : FaultUnit) (configured : PerSource Reaction) : Prop :=
  (∀ src, SourceOk (fu.sources.get src) (configured.get src) ∧ (fu.sources.get src).demand.rank ≤ fu.mode.rank) ∧
    (fu.alert = true ↔ ∃ src, (fu.sources.get src).set = true ∧ 2 ≤ (fu.sources.get src).effective.rank)

/-- Whether an entry is COPYING. -/
def SpareEntry.isCopying : SpareEntry → Bool
  | .copying _ _ _ _ => true
  | _ => false

/-- The line an entry is ACTIVE for. -/
def SpareEntry.activeLine : SpareEntry → Option Nat
  | .active line _ => some line
  | _ => none

/-- The engine is COPYING exactly while one Spare Map entry is, and names it; no line is ACTIVE in two slots; a COPYING
entry's cursor is below 8, and its previous slot and the engine's source are the line's ACTIVE slot (R113, R115,
R117). -/
def MapOk (map : PerSlot SpareEntry) (mig : Option Migration) : Prop :=
  (∀ n, (map.get n).isCopying = true ↔ mig.map (fun m => m.slot) = some n) ∧
    (∀ n k line, (map.get n).activeLine = some line → (map.get k).activeLine = some line → n = k) ∧
    (∀ n line cursor origin previous, map.get n = .copying line cursor origin previous →
      cursor < 8 ∧ previous = activeSlot map line ∧ ∀ m, mig = some m → m.source = sourceOf map line)

/-- The scrub runs only while the fill is DONE and no system reset is in progress; the engine copies only then; a fill
that is due belongs to a system reset in progress; in HALTED the scrub neither sweeps nor waits, but for the end of a
SCRUB grant; a SCRUB_STOP waits only for a SCRUB grant in progress (R116, R134, R139, R146, R179). -/
abbrev EnginesOk (s : State) : Prop :=
  (s.scrub.run ≠ .stopped → s.fill.filling = false ∧ s.resetInProgress = false) ∧
    (s.migration.isSome = true → s.fill.filling = false ∧ s.resetInProgress = false) ∧
    (s.fill.due = true → s.resetInProgress = true) ∧
    (s.faults.mode = .halted → s.scrubGranted = true ∨ ∀ mode phase, s.scrub.run ≠ .running mode phase) ∧
    (s.stopWaits = true → s.scrubInProgress = true)

/-- The location of a FILL grant in progress. -/
def fillGrant : Option Grant → Option Nat
  | some ⟨.fill loc, _⟩ => some loc
  | _ => none

/-- The watermark is P exactly while the fill is DONE and below P while it is FILLING; every location below it has been
written since power-on; a FILL grant is for the watermark of a running fill (R133, R135, R136). -/
abbrev FillOk (s : State) : Prop :=
  (s.fill.filling = true → s.fill.watermark < s.straps.populated) ∧
    (s.fill.filling = false → s.fill.watermark = s.straps.populated) ∧ s.fill.watermark ≤ s.mem.filled ∧
    s.mem.filled ≤ s.straps.populated ∧
    ∀ loc, fillGrant s.grant = some loc → s.fill.filling = true ∧ loc = s.fill.watermark

/-- The pass-over counts are at most 32 (R67). -/
abbrev CountsOk (p : PassOver) : Prop := p.fill ≤ 32 ∧ p.migration ≤ 32 ∧ p.scrub ≤ 32

/-- The settings lie in their ranges, and the scrub region holds at least one line (R138, R182). -/
abbrev SettingsOk (st : Settings) (lines : Nat) : Prop :=
  (1 ≤ st.lockLimit ∧ st.lockLimit ≤ 255) ∧ (1 ≤ st.promoteThreshold ∧ st.promoteThreshold ≤ 15) ∧
    (st.scrubStartLine ≤ st.scrubEndLine ∧ st.scrubEndLine < lines) ∧ (1 ≤ st.scrubBlock ∧ st.scrubBlock ≤ 256) ∧
    (1 ≤ st.pacerBase ∧ st.pacerBase ≤ 65535) ∧ st.pacerFraction ≤ 7 ∧ (1 ≤ st.tickDivisor ∧ st.tickDivisor ≤ 255) ∧
    (16 ≤ st.linkDivisor ∧ st.linkDivisor ≤ 65535) ∧ st.linkFraction ≤ 7

/-- A lock's hold time is 1 to 255 ticks while it is present (R78), and an expiry is due only at 1. -/
abbrev LockOk (l : Lock) : Prop :=
  (∀ n, l.remaining = some n → 1 ≤ n ∧ n ≤ 255) ∧ (l.expiryDue = true → l.remaining = some 1)

/-- The fields of a phase lie in their ranges (R139). -/
def ScrubPhase.ok : ScrubPhase → Bool
  | .sweeping n => decide (1 ≤ n) && decide (n ≤ 256)
  | .waiting n due => decide (1 ≤ n) && decide (n ≤ 65536) && (!due || decide (n = 1))

/-- The fields of a run lie in their ranges (R139). -/
def ScrubRun.ok : ScrubRun → Bool
  | .stopped => true
  | .running _ p => p.ok
  | .paused _ p => p.ok

/-- The fields of the scrub record lie in their ranges (R139). -/
abbrev ScrubOk (sc : Scrub) (lines : Nat) : Prop :=
  sc.run.ok = true ∧ sc.line < lines ∧ sc.word ≤ 7 ∧ sc.accumulator ≤ 7 ∧ sc.skipped ≤ 65535

/-- The settings, the tick, the lock and the scrub record lie in their ranges. -/
abbrev TimersOk (s : State) : Prop :=
  SettingsOk s.settings s.straps.visibleLines ∧ (1 ≤ s.tickLength ∧ s.tickLength ≤ 255) ∧
    (∀ l, s.lock = some l → LockOk l) ∧ ScrubOk s.scrub s.straps.visibleLines

/-- Whether the parser is in RESPOND. -/
def Parser.responds : Parser → Bool
  | .respond _ _ => true
  | _ => false

/-- The FIFO holds at most 4 items and an overrun is pending only while it holds 4; a frame's length is at most 32 and
its payload never longer; the frame timer runs exactly while the parser collects a frame that is not complete; SVC_TX is
released exactly while no response goes out; the accumulators are 0 to 7 (R163, R164, R166, R168, R169, R171). -/
abbrev LinkOk (l : Link) : Prop :=
  l.fifo.length ≤ 4 ∧ (l.overrun = true → l.fifo.length = 4) ∧ l.frame.length ≤ 32 ∧
    l.frame.payload.length ≤ l.frame.length ∧
    (l.frame.position = .command ∨ l.frame.position = .length → l.frame.payload = []) ∧
    (l.frame.position = .payload → l.frame.payload.length < l.frame.length) ∧
    (l.frameTimer.isSome = true ↔ l.parser = .collect ∧ l.frame.position ≠ .complete) ∧
    (l.svcTx = .sending ↔ l.parser.responds = true) ∧
    (l.rxAcc ≤ 7 ∧ l.txAcc ≤ 7 ∧ l.rxTiming.fraction ≤ 7 ∧ l.inUse.fraction ≤ 7)

/-- The parser is in EXECUTE exactly while a command whose response no break has withdrawn is being carried out (R170,
R172). -/
abbrev CommandOk (s : State) : Prop :=
  s.link.parser = .execute ↔ ∃ e, s.executing = some e ∧ e.withdrawn = false

/-- The link and the command in execution. -/
abbrev ServiceOk (s : State) : Prop := s.settings.linkFraction ≤ 7 ∧ LinkOk s.link ∧ CommandOk s

/-! ### The codeword -/

/-- The bit on a codeword position from 1 to 38: a data bit, or the check bit ck on position 2 to the power k (R3). -/
def codewordBit (w : StoredWord) (position : Nat) : Bool :=
  match dataBitAt position with
  | some n => w.data.getLsbD n.val
  | none => w.code.getLsbD (Nat.log2 position)

/-- The exclusive-or of the bits on the positions from 1 to 38 that `p` selects. -/
def positionParity (w : StoredWord) (p : Nat → Bool) : Bool :=
  (List.range 39).foldl (fun x i => if i ≠ 0 && p i then x ^^ codewordBit w i else x) false

/-- An error of one of the 39 coded bits: d0 to d31, then c0 to c6. -/
def errorBit (k : Fin 39) : StoredWord :=
  if k.val < 32 then ⟨BitVec.ofNat 32 (2 ^ k.val), 0, false⟩ else ⟨0, BitVec.ofNat 7 (2 ^ (k.val - 32)), false⟩

/-- The name a CORRECTED outcome gives the bit of a single error (R12). -/
def errorName (k : Fin 39) : ErrorBit :=
  if h : k.val < 32 then .data ⟨k.val, h⟩ else .check ⟨k.val - 32, by omega⟩

/-- The position of a coded bit; c6 has none and counts as 0 (R3). -/
def errorPosition (k : Fin 39) : Nat :=
  if k.val < 32 then dataPositions.getD k.val 0 else if k.val = 38 then 0 else 2 ^ (k.val - 32)

/-! ### Acceptance -/

/-- The request a command presents. -/
def requestOf : Instr → Option Request
  | .readRequest a n p => some (readOf a n false p)
  | .writeRequest a bs p => some (writeOf a bs false p)
  | .lockedReadRequest a n p => some (readOf a n true p)
  | .lockedWriteRequest a bs p => some (writeOf a bs true p)
  | _ => none

/-- The device mode check passes a request (R23). -/
abbrev ModeAdmits (s : State) (req : Request) : Prop :=
  s.faults.mode = .normal ∨ s.faults.mode = .contained ∧ req.op = .read

/-- The lock rules check passes a request (R24). -/
abbrev LockAdmits (s : State) (req : Request) : Prop :=
  req.locked = false ∨ req.count = 1 ∧
    (req.op = .read ∧ s.lock = none ∨
      req.op = .write ∧ s.lock.any (fun l => l.state = .held && l.address = req.address.toNat) = true)

/-- The range check passes a request (R25, R26). -/
abbrev RangeAdmits (s : State) (req : Request) : Prop :=
  s.settings.rangePolicy = .quiet ∨ ∀ i < req.count, req.address.toNat + i < s.straps.visible

/-- The guard bit of a region: bit g of GUARD_LO, or bit g - 32 of GUARD_HI (R27). -/
def guardBit (st : Settings) (g : Nat) : Bool := if g < 32 then st.guardLo.getLsbD g else st.guardHi.getLsbD (g - 32)

/-- The guard check passes a request (R27): region g covers g × P/64 to (g + 1) × P/64 - 1. -/
abbrev GuardAdmits (s : State) (req : Request) : Prop :=
  req.op = .read ∨ req.privileged = true ∨
    ∀ i < req.count, req.address.toNat + i < s.straps.visible →
      guardBit s.settings ((req.address.toNat + i) / (s.straps.populated / 64)) = false

/-- The number in `n` bytes of a payload from byte `k` on, least significant first (R175). -/
def bytesAt (bs : List Byte) (k : Nat) : Nat → Nat
  | 0 => 0
  | n + 1 => (bs.getD k 0).toNat + 256 * bytesAt bs (k + 1) n

/-- A request that all four checks pass (R22). -/
abbrev Admitted (s : State) (req : Request) : Prop :=
  ModeAdmits s req ∧ LockAdmits s req ∧ RangeAdmits s req ∧ GuardAdmits s req

/-- The port takes a presentation: READY, with no other request held on the bus (R21). -/
abbrev Presentable (s : State) : Prop := s.port = .ready ∧ s.held = none

/-- The newest entry of the queue for a word: the last in arrival order (R49). -/
def newestEntry (q : List Entry) (a : Nat) : Option Entry := (q.filter fun e => e.address = a).getLast?

/-! ### The beats of a read -/

/-- A read that has come to beat `i`, which is handed to the Read Path now: where it is the first beat of its run in a
line it touches the line (R71), and it is to be taken from the first case (R34). -/
def State.onBeat (s : State) (req : Request) (marks : Option (List Bool)) (i : Nat) : State :=
  let a := req.address.toNat + i
  { (if markedInRange marks i = true ∧ (i = 0 ∨ a % 8 = 0) then s.touchLine a else s) with
    port := .readActive, txn := some ⟨req, marks, .read i .over⟩ }

/-- What follows the answer OK to beat `i`: the end of the burst after its last beat, and otherwise the next beat (R34,
R36). -/
def State.afterBeat (s : State) (req : Request) (marks : Option (List Bool)) (i : Nat) :
    Host.Outcome State Fault Refusal :=
  if i + 1 = req.count then .next ({ s with txn := none, port := .ready } : State).settle
  else exec .readBeatRetaken (s.onBeat req marks (i + 1))

/-! ### The array behind a grant -/

/-- What a location holds when it is read: the stored word with the bits the SRAM has changed turned over (log 4). -/
def State.found (s : State) (loc : Nat) (u : Upset) : StoredWord := (s.mem.read loc).flip u

/-- The array `m` holds `w` at a location and is `n` everywhere else. -/
def Holds (m n : Memory) (loc : Nat) (w : StoredWord) : Prop :=
  m.read loc = w ∧ ∀ l, l ≠ loc → m.read l = n.read l

/-- The array `m` holds `w` at a location, and at a second one where there is one, and is `n` everywhere else. -/
def HoldsBoth (m n : Memory) (loc : Nat) (dual : Option Nat) (w : StoredWord) : Prop :=
  m.read loc = w ∧ (∀ l, dual = some l → m.read l = w) ∧
    ∀ l, l ≠ loc → dual ≠ some l → m.read l = n.read l

end Sys2Proof.Machine
end

