-- ==== Sys2Proof/Certificates/Slice0/Obligations.lean ====
section
/-! DEFINITION. The statements about the model, for the provers. A statement about a command gives its next state as a
record update of the state before, so every field it does not name is unchanged. `settle` is the end of an event, whose
grant and prefetch words the statements EventEnds and ArbiterGrants describe. -/

section SpecStatements

open Sys2Proof Sys2Proof.Machine

/-! ### Steps -/

/-- A step takes the command at the front of the queue of commands and runs it on the rest; on an empty queue the block
idles (log 3). -/
def Obligations.StepRunsFrontCommand : Prop :=
  (∀ (c : Instr) (cs : List Instr) (s : State), s.pending = c :: cs → step s = exec c (s.withPending cs)) ∧
    ∀ s : State, s.pending = [] → step s = .next s

/-- No command faults or is refused in any state, none touches the queue of commands, and nothing that has left the
part is taken back: the model's choices, that a step that cannot come about changes nothing (log 1), that the queue of
commands is the sender's (log 3, log 21), and that what has been sent is kept in lists (log 10). -/
def Obligations.EveryCommandAnswersNext : Prop :=
  ∀ (c : Instr) (s : State), ∃ t, exec c s = .next t ∧ t.pending = s.pending ∧
    (∃ l, t.upSent = s.upSent ++ l) ∧ ∃ l, t.svcSent = s.svcSent ++ l

/-! ### Stored words and the check code -/

/-- The positions of the codeword (R3), the syndrome number and the parity result of a stored word, position by position
(R9), and the word an encoded write stores: the data with the code that makes both zero, and a clear mark (R4 to R7). -/
def Obligations.SyndromeOfStoredWord : Prop :=
  (dataPositions = [3] ++ [5, 6, 7] ++ [9, 10, 11, 12, 13, 14, 15] ++
      [17, 18, 19, 20, 21, 22, 23, 24, 25, 26, 27, 28, 29, 30, 31] ++ [33, 34, 35, 36, 37, 38]) ∧
    (∀ (w : StoredWord) (n : Fin 32), codewordBit w (dataPositions.getD n.val 0) = w.data.getLsbD n.val) ∧
    (∀ (w : StoredWord) (k : Fin 6), codewordBit w (2 ^ k.val) = w.code.getLsbD k.val) ∧
    (∀ d : Word, encoded d = ⟨d, checkCode d, false⟩) ∧
    (∀ (w : StoredWord) (k : Fin 6), (syndromeOf w).s.getLsbD k.val = positionParity w fun i => i.testBit k.val) ∧
    (∀ w : StoredWord, (syndromeOf w).odd = (positionParity w (fun _ => true) ^^ w.code.getLsbD 6)) ∧
    (∀ d : Word, syndromeOf (encoded d) = ⟨0, false⟩) ∧
    (∀ k : Fin 39, syndromeOf (errorBit k) = ⟨BitVec.ofNat 6 (errorPosition k), true⟩) ∧
    (∀ w u : StoredWord, (syndromeOf (w.flip u)).s = (syndromeOf w).s ^^^ (syndromeOf u).s ∧
      (syndromeOf (w.flip u)).odd = ((syndromeOf w).odd ^^ (syndromeOf u).odd)) ∧
    ∀ (w : StoredWord) (b : Bool), syndromeOf { w with mark := b } = syndromeOf w

/-- A set mark decides the decode, and a clear one leaves it to the code (R10). -/
def Obligations.PoisonMarkDecidesDecode : Prop :=
  ∀ w : StoredWord, (w.mark = true → decode w = ⟨.poisoned, w.data, w.code, none, none⟩) ∧
    (w.mark = false → (decode w).outcome ≠ .poisoned)

/-- The classification by s and p, with the whole result of each row (R11 to R13): the data with the named data bit
restored for CORRECTED and as read otherwise, the code as read, the syndrome for CORRECTED and UNCORRECTABLE, and the
bit named for CORRECTED. One flipped bit is corrected and named, two are never miscorrected. -/
def Obligations.ClassificationOfErrors : Prop :=
  (∀ w : StoredWord, w.mark = false →
    let y := syndromeOf w
    let fixed (data : Word) (b : ErrorBit) : Decoded := ⟨.corrected, data, w.code, some y, some b⟩
    let bad : Decoded := ⟨.uncorrectable, w.data, w.code, some y, none⟩
    (y.s = 0 → y.odd = false → decode w = ⟨.clean, w.data, w.code, none, none⟩) ∧
    (y.s = 0 → y.odd = true → decode w = fixed w.data (.check 6)) ∧
    (∀ n : Fin 32, dataPositions[n.val]? = some y.s.toNat → y.odd = true →
      decode w = fixed (w.data ^^^ BitVec.ofNat 32 (2 ^ n.val)) (.data n)) ∧
    (∀ k : Fin 7, k.val < 6 → y.s.toNat = 2 ^ k.val → y.odd = true → decode w = fixed w.data (.check k)) ∧
    (y.s ≠ 0 → y.odd = false → decode w = bad) ∧ (39 ≤ y.s.toNat → y.odd = true → decode w = bad)) ∧
  (∀ (d : Word) (k : Fin 39), decode ((encoded d).flip (errorBit k)) =
    ⟨.corrected, d, checkCode d ^^^ (errorBit k).code, some ⟨BitVec.ofNat 6 (errorPosition k), true⟩,
      some (errorName k)⟩) ∧
  ∀ (d : Word) (j k : Fin 39), j ≠ k →
    (decode (((encoded d).flip (errorBit j)).flip (errorBit k))).outcome = .uncorrectable

/-! ### The upstream port -/

/-- A request presented in any state but READY is held on the bus with nothing else changed (R21); in READY a request
that was held is presented again as any other, and is held no longer; while one is held another cannot be presented (the
hold and the second presentation: the model's choice, log 8). A request is refused by the first check that fails, with
one ERROR, the check's fault or none, and the lock ended only where it is BROKEN (R22 to R28); the ERROR of a READ
carries the data word zero (R19). A request has 1 to 8 beats (R17). -/
def Obligations.RequestHeldOrRefused : Prop :=
  (refusal .read = .beat 0 true ∧ refusal .write = .completion true) ∧
  (∀ (s : State) (y : UpResponse), s.respond y = { s with upSent := s.upSent ++ [y] }) ∧
  (∀ (a : BitVec 22) (n : Nat) (bs : List Beat) (l p : Bool),
    readOf a n l p = ⟨.read, a, n, [], l, p⟩ ∧ writeOf a bs l p = ⟨.write, a, bs.length, bs, l, p⟩) ∧
  (∀ (c : Instr) (req : Request), requestOf c = some req → (c.wellFormed = true ↔ 1 ≤ req.count ∧ req.count ≤ 8)) ∧
  ∀ (c : Instr) (req : Request) (s : State), requestOf c = some req → c.wellFormed = true →
    (s.port ≠ .ready → s.held = none ∨ s.held = some req → exec c s = .next { s with held := some req }) ∧
    (s.port = .ready → s.held = some req → exec c s = exec c { s with held := none }) ∧
    (∀ other, s.held = some other → other ≠ req → exec c s = .next s) ∧
    (Presentable s →
      let refused (fault : FaultSource) : State := (s.respond (refusal req.op)).occur fault
      (¬ ModeAdmits s req → exec c s = .next (s.respond (refusal req.op)).settle) ∧
      (ModeAdmits s req → req.locked = true →
        (req.count ≠ 1 → exec c s = .next (refused .accessRefused).settle) ∧
        (req.count = 1 → req.op = .read → s.lock ≠ none → exec c s = .next (refused .lockFault).settle) ∧
        (req.count = 1 → req.op = .write →
          (∀ l, s.lock = some l → l.state = .held ∧ l.address ≠ req.address.toNat) →
          exec c s = .next (refused .lockFault).settle) ∧
        ∀ l, req.count = 1 → req.op = .write → s.lock = some l → l.state = .broken →
          exec c s = .next ((({ s with lock := none } : State).respond .writeError).occur .lockFault).settle) ∧
      (ModeAdmits s req → LockAdmits s req → ¬ (RangeAdmits s req ∧ GuardAdmits s req) →
        exec c s = .next (refused .accessRefused).settle))

/-- A taken plain READ (R26, R34, R49, R62, R76): a burst forwarded from full-lane queue entries; for its first beat a
POISON entry, a partial entry, a read-ahead line, an unfilled location and the array; under QUIET, zero beats OK where
all beats lie at or beyond V. That a beat touches its line before it is served, so that the buffer is the one after the
touch, is the model's reading (log 20). An ERROR beat carries the data word zero (R19). Every other burst: its first
beat is handed to the Read Path and taken as a beat whose wait is over, which WaitingBeatTakenAgain describes (R34,
R35). -/
def Obligations.PlainReadServed : Prop :=
  UpResponse.beatError = .beat 0 true ∧
  ∀ (a : BitVec 22) (n : Nat) (p : Bool) (s : State), (Instr.readRequest a n p).wellFormed = true →
    Presentable s → Admitted s (readOf a n false p) →
    (∀ i < n, markedInRange (s.marksOf (readOf a n false p)) i = true ↔
      s.settings.rangePolicy = .error ∨ a.toNat + i < s.straps.visible) ∧
    (exec (.readRequest a n p) s =
      exec .readBeatRetaken (s.onBeat (readOf a n false p) (s.marksOf (readOf a n false p)) 0)) ∧
    (s.straps.visible ≤ a.toNat → exec (.readRequest a n p) s =
      .next ({ s with txn := none, port := .ready, upSent := s.upSent ++ List.replicate n (.beatOk 0) } : State).settle) ∧
    (∀ data : Nat → Word,
      (∀ i < n, a.toNat + i < s.straps.visible ∧ ∃ e, newestEntry s.queue (a.toNat + i) = some e ∧
        e.kind ≠ .poison ∧ e.lanes = .full ∧ e.data = data i) →
      let first := s.touchLine a.toNat
      let second := 8 * (a.toNat / 8 + 1)
      exec (.readRequest a n p) s = .next ({ (if second < a.toNat + n then first.touchLine second else first) with
        txn := none, port := .ready, upSent := s.upSent ++ (List.range n).map fun i => .beatOk (data i) } :
          State).settle) ∧
    (a.toNat < s.straps.visible →
      let r := s.touchLine a.toNat
      let done (x : State) (y : UpResponse) : State :=
        { x with txn := none, port := .ready, upSent := s.upSent ++ [y] }
      let waits (w : BeatWait) : State :=
        { r with port := .readActive, txn := some ⟨readOf a n false p, s.marksOf (readOf a n false p), .read 0 w⟩ }
      (∀ e, newestEntry s.queue a.toNat = some e → e.kind = .poison →
        exec (.readRequest a n p) s = .next (done (r.occur .readUncorrectable) .beatError).settle) ∧
      (∀ e, newestEntry s.queue a.toNat = some e → e.kind ≠ .poison → e.lanes ≠ .full →
        ∃ i, exec (.readRequest a n p) s = .next (waits (.onEntry i)).settle ∧ s.queue[i]? = some e ∧
          ∀ j f, i < j → s.queue[j]? = some f → f.address ≠ a.toNat) ∧
      (newestEntry s.queue a.toNat = none →
        (∀ line early slots d, r.readAhead.entryFor (a.toNat / 8) = .valid line early slots →
          slots[a.toNat % 8]? = some (.good d) → n = 1 →
          exec (.readRequest a n p) s = .next (done r (.beatOk d)).settle) ∧
        (∀ line early slots d kind y loc, r.readAhead.entryFor (a.toNat / 8) = .valid line early slots →
          slots[a.toNat % 8]? = some (.bad d kind y loc) →
          exec (.readRequest a n p) s = .next (done (((r.occur .readUncorrectable).offer .poison a.toNat
            0).deliveryReport a.toNat kind y loc (if s.queue.length < 8 then .queued else .dropped))
              .beatError).settle) ∧
        (∀ line early slots, r.readAhead.entryFor (a.toNat / 8) = .filling line early slots →
          exec (.readRequest a n p) s = .next (waits (.onLine line)).settle) ∧
        (r.readAhead.entryFor (a.toNat / 8) = .empty →
          (s.fill.filling = true → s.fill.watermark ≤ (s.translate a.toNat).1 → n = 1 →
            exec (.readRequest a n p) s = .next (done r (.beatOk 0)).settle) ∧
          (s.fill.filling = false ∨ (s.translate a.toNat).1 < s.fill.watermark →
            exec (.readRequest a n p) s = .next (waits .onArray).settle))))

/-- A prefetch by a read that touches a line (R70 to R73): only with READ_AHEAD ON and the four conditions; an EMPTY
entry is taken first, entry 0 before entry 1, and otherwise the one started earlier; a PREFETCH grant in progress for
the entry taken is abandoned, and every other grant is unchanged (R72). The words of the line being served that lie at
or above the watermark of a running fill are filled zero GOOD at once, here all the words that are left. First the
buffer's own operations (R69). -/
def Obligations.PrefetchStart : Prop :=
  (∀ (line : Nat) (early : Bool) (slots : List RaSlot),
    RaEntry.empty.line? = none ∧ (RaEntry.filling line early slots).line? = some line ∧
    (RaEntry.valid line early slots).line? = some line ∧ RaEntry.empty.startedEarlier = false ∧
    (RaEntry.filling line early slots).startedEarlier = early ∧
    (RaEntry.valid line early slots).startedEarlier = early ∧ RaEntry.empty.older = .empty ∧
    (RaEntry.filling line early slots).older = .filling line true slots ∧
    (RaEntry.valid line early slots).older = .valid line true slots) ∧
  (∀ (ra : ReadAhead) (e : RaEntry), ra.get 0 = ra.e0 ∧ ra.get 1 = ra.e1 ∧ ra.set 0 e = ⟨e, ra.e1⟩ ∧
    ra.set 1 e = ⟨ra.e0, e⟩ ∧
    (∀ line, ra.entryFor line =
      if ra.e0.line? = some line then ra.e0 else if ra.e1.line? = some line then ra.e1 else .empty) ∧
    ∀ i, ra.served = some i ↔ ∃ line early slots, ra.get i = .filling line early slots ∧
      ∀ j l x y, j ≠ i → ra.get j = .filling l x y → (i = 0 ↔ ra.e0.startedEarlier = true)) ∧
  (∀ (s : State) (a : Nat),
    let line := a / 8 + 1
    let may : Prop := s.settings.readAhead = true ∧ line < s.straps.visible / 8 ∧
      s.readAhead.e0.line? ≠ some line ∧ s.readAhead.e1.line? ≠ some line ∧
      (∀ n cursor o q, s.spareMap.get n ≠ .copying line cursor o q) ∧
      ∀ e ∈ s.queue, e.kind = .busWrite ∨ e.kind = .lockedWrite → e.address / 8 ≠ line
    let taken : Fin 2 :=
      if s.readAhead.e0 = .empty then 0 else if s.readAhead.e1 = .empty then 1
      else if s.readAhead.e0.startedEarlier then 0 else 1
    let started : ReadAhead :=
      if taken = 0 then ⟨.filling line false [], s.readAhead.e1.older⟩
      else ⟨s.readAhead.e0.older, .filling line false []⟩
    (¬ may → s.touchLine a = s) ∧
    (may → s.fill.filling = false → (s.touchLine a).readAhead = started) ∧
    (may → (s.touchLine a).readAhead = ({ s with readAhead := started } : State).settle.readAhead) ∧
    (may → ∀ x loc k o, s.grant = some ⟨.prefetch (some taken) x loc k, o⟩ →
      (s.touchLine a).grant = some ⟨.prefetch none x loc k, o⟩) ∧
    ((∀ x loc k o, s.grant ≠ some ⟨.prefetch (some taken) x loc k, o⟩) → (s.touchLine a).grant = s.grant) ∧
    s.touchLine a = { s with readAhead := (s.touchLine a).readAhead, grant := (s.touchLine a).grant }) ∧
  ∀ (s : State) (i : Fin 2) (line : Nat) (early : Bool) (slots : List RaSlot), s.readAhead.served = some i →
    s.readAhead.get i = .filling line early slots → slots.length < 8 → s.fill.filling = true →
    (∀ k, slots.length ≤ k → k < 8 → s.fill.watermark ≤ (s.translate (8 * line + k)).1) →
    (∀ n, n ≠ i → ∀ l early' slots', s.readAhead.get n ≠ .filling l early' slots') →
    s.settle.readAhead = s.readAhead.set i (.valid line early (slots ++ List.replicate (8 - slots.length) (.good 0)))

/-- A taken plain WRITE (R29 to R32): with no queued beat it is completed at once; with room it is inserted, and
completed where POSTED; without room it waits and the queue holds none of its beats. -/
def Obligations.PlainWriteTaken : Prop :=
  ∀ (a : BitVec 22) (bs : List Beat) (p : Bool) (s : State), (Instr.writeRequest a bs p).wellFormed = true →
    Presentable s → Admitted s (writeOf a bs false p) →
    let req := writeOf a bs false p
    let queued : Nat × Beat → Prop := fun x => ∃ i, bs[i]? = some x.2 ∧ x.1 = a.toNat + i ∧
      x.1 < s.straps.visible ∧ x.2.lanes ≠ 0
    let beats := queuedBeats req (s.marksOf req)
    let posted := s.insertBeats false false beats
    let through := s.insertBeats false true beats
    (∀ x, x ∈ beats ↔ queued x) ∧ beats.Pairwise (fun x y => x.1 < y.1) ∧
    (beats = [] → exec (.writeRequest a bs p) s = .next (({ s with txn := none } : State).respond .writeOk).settle) ∧
    (beats ≠ [] → beats.length ≤ 8 - s.queue.length → s.settings.posting = .posted →
      exec (.writeRequest a bs p) s = .next (({ posted.state with txn := none } : State).respond .writeOk).settle) ∧
    (beats ≠ [] → beats.length ≤ 8 - s.queue.length → s.settings.posting = .through →
      exec (.writeRequest a bs p) s = .next ({ through.state with
        port := .writeDrainWait,
        txn := some ⟨req, s.marksOf req, .write .through through.places through.lost⟩ } : State).settle) ∧
    (8 - s.queue.length < beats.length → exec (.writeRequest a bs p) s = .next ({ s with
      port := .writeSpaceWait, txn := some ⟨req, s.marksOf req, .write s.settings.posting [] false⟩ } : State).settle)

/-- The insertion of queued beats in beat order (R43 to R46, R55, R84): a beat merges into the WAITING entry for its
word by the entry's kind, or is appended; the read-ahead line of the word is emptied, and a PREFETCH grant in progress
for it loses its entry (R75), every other grant being unchanged; a plain beat breaks the word's lock; a partial beat on
a POISON entry raises WRITE_MERGE_FAILED, which alone can touch the scrub (R146). The write is lost in part, which a
THROUGH write takes as its failed field, exactly where one of its beats is so lost (R33). -/
def Obligations.BeatInsertion : Prop :=
  (∀ (locked through : Bool) (b : Beat) (e : Entry),
    let kind : EntryKind := if locked then .lockedWrite else .busWrite
    let m := merged locked through b e
    m.address = e.address ∧ m.stage = e.stage ∧ m.waiter = (e.waiter || through) ∧
    (e.kind = .poison → b.lanes ≠ .full → m.kind = .poison ∧ m.data = e.data ∧ m.lanes = e.lanes) ∧
    (e.kind = .poison → b.lanes = .full → m.kind = kind ∧ m.data = b.data ∧ m.lanes = .full) ∧
    (e.kind = .repair → m.kind = kind) ∧
    (e.kind = .busWrite → m.kind = kind) ∧
    (e.kind = .lockedWrite → m.kind = .lockedWrite) ∧
    (e.kind ≠ .poison → m.lanes = e.lanes ||| b.lanes ∧
      ∀ i < 32, m.data.getLsbD i = if b.lanes.getLsbD (i / 8) then b.data.getLsbD i else e.data.getLsbD i)) ∧
  (∀ (s : State) (locked through : Bool) (a : Nat) (b : Beat),
    let t := s.insertBeat locked through a b
    let lost : Prop := ∃ e, s.queue.find? (fun e => e.address = a && e.stage = .waiting) = some e ∧
      e.kind = .poison ∧ b.lanes ≠ .full
    (∀ i e, s.queue[i]? = some e → e.address = a → e.stage = .waiting →
      (∀ j f, j < i → s.queue[j]? = some f → ¬ (f.address = a ∧ f.stage = .waiting)) →
      t.queue = s.queue.set i (merged locked through b e)) ∧
    ((∀ e ∈ s.queue, ¬ (e.address = a ∧ e.stage = .waiting)) →
      t.queue = s.queue ++
        [⟨if locked then .lockedWrite else .busWrite, a, b.data, b.lanes, through, .waiting⟩]) ∧
    (∀ i, t.readAhead.get i =
      if (s.readAhead.get i).line? = some (a / 8) then .empty else s.readAhead.get i) ∧
    (t.lock = if locked then s.lock else s.lock.map fun l => if l.address = a then { l with state := .broken } else l) ∧
    (lost → t.faults = (s.occur .writeMergeFailed).faults ∧ t.scrub = (s.occur .writeMergeFailed).scrub) ∧
    (¬ lost → t.faults = s.faults ∧ t.scrub = s.scrub) ∧
    (∀ i x loc k o, s.grant = some ⟨.prefetch (some i) x loc k, o⟩ → (s.readAhead.get i).line? = some (a / 8) →
      t.grant = some ⟨.prefetch none x loc k, o⟩) ∧
    ((∀ i x loc k o, s.grant = some ⟨.prefetch (some i) x loc k, o⟩ → (s.readAhead.get i).line? ≠ some (a / 8)) →
      t.grant = s.grant) ∧
    t = { s with queue := t.queue, readAhead := t.readAhead, grant := t.grant, lock := t.lock, faults := t.faults,
                 scrub := t.scrub }) ∧
  ∀ (s : State) (locked through : Bool) (a : Nat) (b : Beat) (rest : List (Nat × Beat)),
    (s.insertBeats locked through []).state = s ∧
    (s.insertBeats locked through ((a, b) :: rest)).state =
      ((s.insertBeat locked through a b).insertBeats locked through rest).state ∧
    (s.insertBeats locked through []).lost = false ∧
    ((s.insertBeats locked through ((a, b) :: rest)).lost = true ↔
      (∃ e, s.queue.find? (fun e => e.address = a && e.stage = .waiting) = some e ∧ e.kind = .poison ∧
        b.lanes ≠ .full) ∨
      ((s.insertBeat locked through a b).insertBeats locked through rest).lost = true) ∧
    (s.queue.Pairwise (fun e f => clash e f = false) →
      ∀ i, i ∈ (s.insertBeats locked through rest).places ↔
        ∃ x ∈ rest, ∃ e, (s.insertBeats locked through rest).state.queue[i]? = some e ∧ e.address = x.1 ∧
          e.stage = .waiting)

/-- A write goes on (R21, R29, R31, R32, R85): one waiting for space is inserted once the queue has room, and otherwise
goes on waiting; a THROUGH or locked one is answered when the last awaited entry has drained, ERROR where failed is yes,
otherwise OK, and a locked one's answer ends the lock. -/
def Obligations.WritesCarriedOn : Prop :=
  ∀ (s : State) (req : Request) (marks : Option (List Bool)) (posting : PostingMode) (aw : List Nat) (f : Bool),
    s.txn = some ⟨req, marks, .write posting aw f⟩ →
    let beats := queuedBeats req marks
    let r := s.insertBeats req.locked (decide (posting = .through)) beats
    (s.port = .writeSpaceWait →
      (8 - s.queue.length < beats.length → exec .writeInsertion s = .next s) ∧
      (beats.length ≤ 8 - s.queue.length → posting = .posted → exec .writeInsertion s =
        .next (({ r.state with port := .ready, txn := none } : State).respond .writeOk).settle) ∧
      (beats.length ≤ 8 - s.queue.length → posting = .through → exec .writeInsertion s = .next ({ r.state with
        port := .writeDrainWait, txn := some ⟨req, marks, .write .through r.places r.lost⟩ } : State).settle)) ∧
    (s.port = .writeDrainWait →
      (aw ≠ [] → exec .writeCompletion s = .next s) ∧
      (aw = [] → exec .writeCompletion s =
        .next (({ s with lock := if req.locked then none else s.lock, port := .ready, txn := none } : State).respond
          (if f then .writeError else .writeOk)).settle))

/-- A read beat whose wait has ended is taken again from the first case (R34, R35): a full-lane queue entry, a POISON
entry, a partial entry, a GOOD slot, a BAD slot (R76), a FILLING line, an unfilled location and the array; a beat marked
out of range is answered zero OK (R26). After an answer OK the burst ends with its last beat, and otherwise the next
beat is handed to the Read Path and taken in the same way; after an ERROR it ends (R36). That it touches its line before
it is served is the model's reading (log 20). -/
def Obligations.WaitingBeatTakenAgain : Prop :=
  (∀ (s : State) (req : Request) (marks : Option (List Bool)) (i : Nat),
    let a := req.address.toNat + i
    (i + 1 = req.count → s.afterBeat req marks i = .next ({ s with txn := none, port := .ready } : State).settle) ∧
    (i + 1 ≠ req.count → s.afterBeat req marks i = exec .readBeatRetaken (s.onBeat req marks (i + 1))) ∧
    (markedInRange marks i = true → i = 0 ∨ a % 8 = 0 → s.onBeat req marks i =
      { s.touchLine a with port := .readActive, txn := some ⟨req, marks, .read i .over⟩ }) ∧
    (¬ (markedInRange marks i = true ∧ (i = 0 ∨ a % 8 = 0)) → s.onBeat req marks i =
      { s with port := .readActive, txn := some ⟨req, marks, .read i .over⟩ })) ∧
  ∀ (s : State) (req : Request) (marks : Option (List Bool)) (i : Nat) (w : BeatWait),
    s.port = .readActive → s.txn = some ⟨req, marks, .read i w⟩ → i < req.count →
    (w = .over ∨ ∃ line, w = .onLine line ∧ ∀ l early slots, s.readAhead.entryFor line ≠ .filling l early slots) →
    let a := req.address.toNat + i
    let answered (d : Word) : Host.Outcome State Fault Refusal := (s.respond (.beatOk d)).afterBeat req marks i
    let ended (x : State) : State := { x.respond .beatError with txn := none, port := .ready }
    let waits (v : BeatWait) : State := { s with txn := some ⟨req, marks, .read i v⟩ }
    (markedInRange marks i = false → exec .readBeatRetaken s = answered 0) ∧
    (markedInRange marks i = true →
      (∀ e, newestEntry s.queue a = some e → e.kind ≠ .poison → e.lanes = .full →
        exec .readBeatRetaken s = answered e.data) ∧
      (∀ e, newestEntry s.queue a = some e → e.kind = .poison →
        exec .readBeatRetaken s = .next (ended (s.occur .readUncorrectable)).settle) ∧
      (∀ e, newestEntry s.queue a = some e → e.kind ≠ .poison → e.lanes ≠ .full →
        ∃ k, exec .readBeatRetaken s = .next (waits (.onEntry k)).settle ∧ s.queue[k]? = some e ∧
          ∀ j f, k < j → s.queue[j]? = some f → f.address ≠ a) ∧
      (newestEntry s.queue a = none →
        (∀ line early slots d, s.readAhead.entryFor (a / 8) = .valid line early slots →
          slots[a % 8]? = some (.good d) → exec .readBeatRetaken s = answered d) ∧
        (∀ line early slots d kind y loc, s.readAhead.entryFor (a / 8) = .valid line early slots →
          slots[a % 8]? = some (.bad d kind y loc) → exec .readBeatRetaken s = .next (ended
            (((s.occur .readUncorrectable).offer .poison a 0).deliveryReport a kind y loc
              (if s.queue.length < 8 then .queued else .dropped))).settle) ∧
        (∀ line early slots, s.readAhead.entryFor (a / 8) = .filling line early slots →
          exec .readBeatRetaken s = .next (waits (.onLine line)).settle) ∧
        (s.readAhead.entryFor (a / 8) = .empty →
          (s.fill.filling = true → s.fill.watermark ≤ (s.translate a).1 → exec .readBeatRetaken s = answered 0) ∧
          (s.fill.filling = false ∨ (s.translate a).1 < s.fill.watermark →
            exec .readBeatRetaken s = .next (waits .onArray).settle))))

/-! ### Locked sequences -/

/-- Taken locked requests (R79, R85). A READ waits to read the array; under QUIET one at or beyond V is answered zero
OK. A WRITE makes its lock's hold time absent and is carried as THROUGH whatever POSTING holds; a beat that enables no
lane is completed OK at once and ends the lock. -/
def Obligations.LockedRequestsTaken : Prop :=
  (∀ (a : BitVec 22) (n : Nat) (p : Bool) (s : State), (Instr.lockedReadRequest a n p).wellFormed = true →
    Presentable s → Admitted s (readOf a n true p) →
    (a.toNat < s.straps.visible → exec (.lockedReadRequest a n p) s = .next ({ s with
      port := .readActive,
      txn := some ⟨readOf a n true p, s.marksOf (readOf a n true p), .read 0 .onLock⟩ } : State).settle) ∧
    (s.straps.visible ≤ a.toNat → exec (.lockedReadRequest a n p) s =
      .next (({ s with txn := none } : State).respond (.beatOk 0)).settle)) ∧
  ∀ (a : BitVec 22) (b : Beat) (p : Bool) (s : State) (l : Lock), Presentable s →
    Admitted s (writeOf a [b] true p) → s.lock = some l → l.address < s.straps.visible →
    let req := writeOf a [b] true p
    let u : State := { s with lock := some { l with remaining := none, expiryDue := false } }
    let placed := u.insertBeats true true [(a.toNat, b)]
    (b.lanes = 0 → exec (.lockedWriteRequest a [b] p) s =
      .next (({ s with lock := none, txn := none } : State).respond .writeOk).settle) ∧
    (b.lanes ≠ 0 → s.queue.length < 8 → exec (.lockedWriteRequest a [b] p) s = .next
      ({ placed.state with
        port := .writeDrainWait,
        txn := some ⟨req, s.marksOf req, .write .through placed.places placed.lost⟩ } : State).settle) ∧
    (b.lanes ≠ 0 → 8 ≤ s.queue.length → exec (.lockedWriteRequest a [b] p) s = .next ({ u with
      port := .writeSpaceWait, txn := some ⟨req, s.marksOf req, .write .through [] false⟩ } : State).settle)

/-- The decode of a locked read's grant (R81): CLEAN and CORRECTED answer the beat and make a HELD lock with LOCK_LIMIT
ticks; UNCORRECTABLE and POISONED are answered ERROR and make none. -/
def Obligations.LockedReadDecoded : Prop :=
  ∀ (s : State) (a loc : Nat) (k : Location) (u : Upset), s.mem.wf = true →
    s.grant = some ⟨.foreground a loc k true, false⟩ →
    let d := decode (s.found loc u)
    let r : State := { s with grant := none, mem := s.mem.disturbed loc u }
    let locks (x : State) : State := { x with
      lock := some ⟨a, .held, some s.settings.lockLimit, false⟩, txn := none, port := .ready,
      upSent := s.upSent ++ [.beatOk d.data] }
    Holds (s.mem.disturbed loc u) s.mem loc (s.found loc u) ∧
    (d.outcome = .clean → exec (.lockedReadDecode u) s = .next (locks r).settle) ∧
    (d.outcome = .corrected → exec (.lockedReadDecode u) s = .next (locks
      ((r.arrive ⟨a, k, .corrected, d.bit, d.syndrome, .lockedRead, .byWrite, false⟩).occur .corrected)).settle) ∧
    ∀ kind : Detected, d.outcome = .uncorrectable ∧ kind = .uncorrectable ∨ d.outcome = .poisoned ∧ kind = .poisoned →
      exec (.lockedReadDecode u) s = .next
        ({ (((r.offer .poison a 0).arrive
            ⟨a, k, kind, none, d.syndrome, .lockedRead, offerAnswer s.queue a, true⟩).occur .readUncorrectable) with
          txn := none, port := .ready, upSent := s.upSent ++ [UpResponse.beatError] } : State).settle

/-! ### The ends of array operations -/

/-- The decode of a plain read beat's grant (R63, R36): CLEAN and CORRECTED answer the beat OK, and the burst ends with
its last beat or goes on with the next; UNCORRECTABLE and POISONED answer ERROR, which ends it. -/
def Obligations.ForegroundReadDecoded : Prop :=
  ∀ (s : State) (a loc : Nat) (k : Location) (u : Upset) (req : Request) (marks : Option (List Bool)) (i : Nat)
    (w : BeatWait), s.mem.wf = true → s.grant = some ⟨.foreground a loc k false, false⟩ →
    s.txn = some ⟨req, marks, .read i w⟩ →
    let d := decode (s.found loc u)
    let r : State := { s with grant := none, mem := s.mem.disturbed loc u }
    let done (x : State) (y : UpResponse) : State :=
      { x with txn := none, port := .ready, upSent := s.upSent ++ [y] }
    Holds (s.mem.disturbed loc u) s.mem loc (s.found loc u) ∧
    (d.outcome = .clean → i + 1 = req.count → exec (.foregroundRead u) s = .next (done r (.beatOk d.data)).settle) ∧
    (d.outcome = .corrected → i + 1 = req.count → exec (.foregroundRead u) s = .next
      (done (((r.offer .repair a d.data).arrive
        ⟨a, k, .corrected, d.bit, d.syndrome, .read, offerAnswer s.queue a, false⟩).occur .corrected)
        (.beatOk d.data)).settle) ∧
    (i < req.count →
      (d.outcome = .clean → exec (.foregroundRead u) s = (r.respond (.beatOk d.data)).afterBeat req marks i) ∧
      (d.outcome = .corrected → exec (.foregroundRead u) s = ((((r.offer .repair a d.data).arrive
        ⟨a, k, .corrected, d.bit, d.syndrome, .read, offerAnswer s.queue a, false⟩).occur .corrected).respond
          (.beatOk d.data)).afterBeat req marks i)) ∧
    (d.outcome = .clean ∨ d.outcome = .corrected → ∃ t l, exec (.foregroundRead u) s = .next t ∧
      t.upSent = s.upSent ++ .beatOk d.data :: l ∧ t.mem = s.mem.disturbed loc u) ∧
    ∀ kind : Detected, d.outcome = .uncorrectable ∧ kind = .uncorrectable ∨ d.outcome = .poisoned ∧ kind = .poisoned →
      exec (.foregroundRead u) s = .next
        (done (((r.offer .poison a 0).arrive
          ⟨a, k, kind, none, d.syndrome, .read, offerAnswer s.queue a, true⟩).occur .readUncorrectable)
          .beatError).settle

/-- A grant that a system reset leaves to finish (R8, R38, R75, R77, R90, R94, R132, R148). A read's detection is
reported with repair NONE, nothing is offered, no beat is delivered and no lock is made; a prefetch's data is not kept;
a migration's READ reports its detection and holds nothing, its WRITE is made, and its VERIFY of a different word raises
MIGRATION_FAILED and retires the slot, now FREE (a slot that a new migration has taken is left to it: the model's
choice, log 27); a scrub's word is corrected or marked and reported, and the accumulator and the counts are kept (R148),
the cursors too: that they do not advance is the model's reading (log 11), and that a CORRECTED word's arrival carries
DIRECT as it was written back is the model's choice (log 32). -/
def Obligations.AbandonedGrantFinished : Prop :=
  ∀ (s : State) (a loc : Nat) (k : Location) (u : Upset), s.mem.wf = true →
    let w := s.found loc u
    let d := decode w
    let r : State := { s with grant := none, mem := s.mem.disturbed loc u }
    let corrected (x : State) (src : Source) (repair : Repair) : State :=
      (x.arrive ⟨a, k, .corrected, d.bit, d.syndrome, src, repair, false⟩).occur .corrected
    let failed (kind : Detected) : Prop :=
      d.outcome = .uncorrectable ∧ kind = .uncorrectable ∨ d.outcome = .poisoned ∧ kind = .poisoned
    (∀ (locked : Bool), s.grant = some ⟨.foreground a loc k locked, true⟩ →
      let c : Instr := if locked then .lockedReadDecode u else .foregroundRead u
      let src : Source := if locked then .lockedRead else .read
      (d.outcome = .clean → exec c s = .next r.settle) ∧
      (d.outcome = .corrected → exec c s = .next (corrected r src .none).settle) ∧
      ∀ kind, failed kind →
        exec c s = .next ((r.arrive ⟨a, k, kind, none, d.syndrome, src, .none, true⟩).occur .readUncorrectable).settle) ∧
    (s.grant = some ⟨.prefetch none a loc k, true⟩ →
      (d.outcome = .clean → exec (.prefetchRead u) s = .next r.settle) ∧
      (d.outcome = .corrected → exec (.prefetchRead u) s = .next (corrected r .prefetch .none).settle) ∧
      ∀ kind, failed kind →
        exec (.prefetchRead u) s = .next (r.arrive ⟨a, k, kind, none, d.syndrome, .prefetch, .none, false⟩).settle) ∧
    (s.grant = some ⟨.migrationRead a loc k, true⟩ →
      (d.outcome = .clean → exec (.migrationRead u) s = .next r.settle) ∧
      (d.outcome = .corrected → exec (.migrationRead u) s = .next (corrected r .migration .moved).settle) ∧
      ∀ kind, failed kind → exec (.migrationRead u) s =
        .next ((r.arrive ⟨a, k, kind, none, d.syndrome, .migration, .moved, true⟩).occur
          .backgroundUncorrectable).settle) ∧
    (∀ held, s.grant = some ⟨.migrationWrite loc held, true⟩ →
      ∃ m, exec .migrationWrite s = .next ({ s with grant := none, mem := m } : State).settle ∧ Holds m s.mem loc held) ∧
    (∀ (n : Fin 8) held, s.grant = some ⟨.migrationVerify n loc held, true⟩ →
      (w = held → exec (.migrationVerify u) s = .next r.settle) ∧
      (w ≠ held → exec (.migrationVerify u) s = .next (({ r with
        spareMap := s.spareMap.set n (if s.spareMap.get n = .free then .retired else s.spareMap.get n) } : State).occur
          .migrationFailed).settle)) ∧
    (s.grant = some ⟨.scrub a loc k, true⟩ → s.stopWaits = false →
      let ends (x : State) : State := ({ x with grant := none } : State).pauseIfHalted
      (d.outcome = .clean → ∃ m, exec (.scrubWord u) s = .next (ends { s with mem := m }).settle ∧
        Holds m s.mem loc w) ∧
      (d.outcome = .corrected → ∃ m, exec (.scrubWord u) s =
          .next (ends (corrected { s with mem := m } .scrub .direct)).settle ∧
        Holds m s.mem loc (encoded d.data)) ∧
      (d.outcome = .uncorrectable → ∃ m, exec (.scrubWord u) s =
          .next (ends ((({ s with mem := m } : State).arrive
            ⟨a, k, .uncorrectable, none, d.syndrome, .scrub, .none, true⟩).occur .backgroundUncorrectable)).settle ∧
        Holds m s.mem loc ⟨w.data, w.code, true⟩) ∧
      (d.outcome = .poisoned → ∃ m, exec (.scrubWord u) s =
          .next (ends (({ s with mem := m } : State).arrive
            ⟨a, k, .poisoned, none, none, .scrub, .none, false⟩)).settle ∧
        Holds m s.mem loc w) ∧
      ∀ (x : State) (src : FaultSource) (y : Arrival),
        (x.occur src).scrub = { x.scrub with run := (x.occur src).scrub.run } ∧
        (x.arrive y).scrub = { x.scrub with run := (x.arrive y).scrub.run } ∧
        (ends x).scrub = { x.scrub with run := (ends x).scrub.run })

/-- The end of the head's drain (R14 to R16, R51 to R53): the stored word by the entry's kind and lanes, at the location
and at a dual write's second one; the arrival and the fault of a merge; the head leaves the queue and its result goes to
its waiter. What that does to the transaction (R32, R35, R55): an awaited entry that has drained is awaited no longer, a
FAILED result sets failed, a read beat that waited for the head waits no longer, and the places of the others move up.
The merge takes the enabled lanes from the entry and the others from the word read (R15). -/
def Obligations.DrainEnds : Prop :=
  (∀ (lanes : Lanes) (new old : Word), ∀ i < 32, (mergeLanes lanes new old).getLsbD i =
    if lanes.getLsbD (i / 8) then new.getLsbD i else old.getLsbD i) ∧
  (∀ (req : Request) (marks : Option (List Bool)) (posting : PostingMode) (aw : List Nat) (f b : Bool) (i : Nat)
      (v : BeatWait),
    (∃ aw', Transaction.headLeft ⟨req, marks, .write posting aw f⟩ b = ⟨req, marks, .write posting aw' (f || b)⟩ ∧
      ∀ n, n ∈ aw' ↔ n + 1 ∈ aw) ∧
    Transaction.headLeft ⟨req, marks, .read i (.onEntry 0)⟩ b = ⟨req, marks, .read i .over⟩ ∧
    (∀ n, Transaction.headLeft ⟨req, marks, .read i (.onEntry (n + 1))⟩ b = ⟨req, marks, .read i (.onEntry n)⟩) ∧
    ((∀ n, v ≠ .onEntry n) → Transaction.headLeft ⟨req, marks, .read i v⟩ b = ⟨req, marks, .read i v⟩)) ∧
  ∀ (s : State) (e : Entry) (rest : List Entry) (loc : Nat) (k : Location) (dual : Option Nat) (o : Bool) (u : Upset),
    s.mem.wf = true → s.queue = e :: rest → s.grant = some ⟨.drain loc k dual, o⟩ →
    let w := s.found loc u
    let d := decode w
    let after (m : Memory) : State := { s with grant := none, mem := m }
    let left (x : State) (failed : Bool) : State :=
      { x with queue := rest, txn := s.txn.map fun y => y.headLeft (e.waiter && failed) }
    let merges : Prop := (e.kind = .busWrite ∨ e.kind = .lockedWrite) ∧ e.lanes ≠ .full
    (e.kind = .poison → ∃ m, exec (.drainEnd u) s = .next (left (after m) false).settle ∧
      HoldsBoth m s.mem loc dual ⟨w.data, w.code, true⟩) ∧
    (e.kind ≠ .poison → e.lanes = .full → ∃ m, exec (.drainEnd u) s = .next (left (after m) false).settle ∧
      HoldsBoth m s.mem loc dual (encoded e.data)) ∧
    (merges → d.outcome = .clean → ∃ m, exec (.drainEnd u) s = .next (left (after m) false).settle ∧
      HoldsBoth m s.mem loc dual (encoded (mergeLanes e.lanes e.data d.data))) ∧
    (merges → d.outcome = .corrected → ∃ m,
      exec (.drainEnd u) s = .next (left (((after m).arrive
        ⟨e.address, k, .corrected, d.bit, d.syndrome, .merge, .direct, false⟩).occur .corrected) false).settle ∧
      HoldsBoth m s.mem loc dual (encoded (mergeLanes e.lanes e.data d.data))) ∧
    ∀ kind : Detected, merges →
      d.outcome = .uncorrectable ∧ kind = .uncorrectable ∨ d.outcome = .poisoned ∧ kind = .poisoned →
      ∃ m, exec (.drainEnd u) s = .next (left (((after m).arrive
        ⟨e.address, k, kind, none, d.syndrome, .merge, .none, true⟩).occur .writeMergeFailed) true).settle ∧
      HoldsBoth m s.mem loc dual ⟨w.data, w.code, true⟩

/-- A prefetch word's decode (R73, R74): the next slot of the FILLING entry is filled GOOD or BAD, the entry is VALID
after the word at offset 7, and the report is made. Where no read beat waits on the line, or the line is not yet VALID,
nothing else follows but the end of the event, in which the words left are filled zero where they lie at or above the
watermark of a running fill. A read beat that waits on the line is taken again once the line is VALID, by its last word
or by such zero words (that it is taken within PREFETCH_READ: log 19); in full here for the last beat of a burst, a GOOD
slot and no queue entry. A grant whose entry has been invalidated or replaced is finished and reported as though the
entry stood, and its data is not kept (R75). -/
def Obligations.PrefetchWordDecoded : Prop :=
  (∀ (s : State) (a loc : Nat) (k : Location) (u : Upset), s.mem.wf = true →
    s.grant = some ⟨.prefetch none a loc k, false⟩ →
    let d := decode (s.found loc u)
    let r : State := { s with grant := none, mem := s.mem.disturbed loc u }
    Holds (s.mem.disturbed loc u) s.mem loc (s.found loc u) ∧
    (d.outcome = .clean → exec (.prefetchRead u) s = .next r.settle) ∧
    (d.outcome = .corrected → exec (.prefetchRead u) s = .next (((r.offer .repair a d.data).arrive
      ⟨a, k, .corrected, d.bit, d.syndrome, .prefetch, offerAnswer s.queue a, false⟩).occur .corrected).settle) ∧
    ∀ kind : Detected, d.outcome = .uncorrectable ∧ kind = .uncorrectable ∨ d.outcome = .poisoned ∧ kind = .poisoned →
      exec (.prefetchRead u) s =
        .next (r.arrive ⟨a, k, kind, none, d.syndrome, .prefetch, .none, false⟩).settle) ∧
  ∀ (s : State) (i : Fin 2) (a loc : Nat) (k : Location) (u : Upset) (line : Nat) (early : Bool) (slots : List RaSlot),
    s.mem.wf = true → s.grant = some ⟨.prefetch (some i) a loc k, false⟩ → a / 8 = line →
    s.readAhead.get i = .filling line early slots →
    let d := decode (s.found loc u)
    let r : State := { s with grant := none, mem := s.mem.disturbed loc u }
    let next (slot : RaSlot) : RaEntry :=
      if slots.length < 7 then .filling line early (slots ++ [slot]) else .valid line early (slots ++ [slot])
    let fills (x : State) (slot : RaSlot) : State := { x with readAhead := s.readAhead.set i (next slot) }
    let ends (x : State) (slot : RaSlot) : Prop :=
      d.outcome = .clean ∧ x = r ∧ slot = .good d.data ∨
      d.outcome = .corrected ∧ slot = .good d.data ∧ x = ((r.offer .repair a d.data).arrive
        ⟨a, k, .corrected, d.bit, d.syndrome, .prefetch, offerAnswer s.queue a, false⟩).occur .corrected ∨
      d.outcome = .uncorrectable ∧ slot = .bad d.data .uncorrectable d.syndrome k ∧
        x = r.arrive ⟨a, k, .uncorrectable, none, d.syndrome, .prefetch, .none, false⟩ ∨
      d.outcome = .poisoned ∧ slot = .bad d.data .poisoned none k ∧
        x = r.arrive ⟨a, k, .poisoned, none, none, .prefetch, .none, false⟩
    let unfilled (b : Nat) : Prop := s.fill.filling = true ∧ s.fill.watermark ≤ (s.translate b).1
    let alone : Prop := ∀ n, n ≠ i → (s.readAhead.get n).line? ≠ some line
    Holds (s.mem.disturbed loc u) s.mem loc (s.found loc u) ∧ (∃ x slot, ends x slot) ∧
    (∀ x slot, ends x slot →
      (∀ req marks j, s.txn ≠ some ⟨req, marks, .read j (.onLine line)⟩) ∨
        slots.length < 7 ∧ ¬ unfilled (8 * line + slots.length + 1) ∧ alone →
      exec (.prefetchRead u) s = .next (fills x slot).settle) ∧
    (∀ x slot req marks j, ends x slot → s.port = .readActive → s.txn = some ⟨req, marks, .read j (.onLine line)⟩ →
      alone → slots.length = 7 ∨ slots.length < 7 ∧ s.readAhead.served = some i ∧
        (∀ m, slots.length < m → m < 8 → unfilled (8 * line + m)) →
      let full := slots ++ slot :: List.replicate (7 - slots.length) (.good 0)
      ∃ ra, exec (.prefetchRead u) s = exec .readBeatRetaken { x with readAhead := ra } ∧
        ra.get i = .valid line early full ∧
        (s.fill.filling = false → ra = s.readAhead.set i (.valid line early full))) ∧
    ∀ (req : Request) (marks : Option (List Bool)) (j : Nat) (x : Word), slots.length = 7 →
      (∀ n, n ≠ i → (s.readAhead.get n).line? ≠ some line) → s.port = .readActive →
      s.txn = some ⟨req, marks, .read j (.onLine line)⟩ → j + 1 = req.count → markedInRange marks j = true →
      (req.address.toNat + j) / 8 = line → newestEntry s.queue (req.address.toNat + j) = none → d.outcome = .clean →
      (slots ++ [.good d.data])[(req.address.toNat + j) % 8]? = some (.good x) →
      ∃ ra, exec (.prefetchRead u) s = .next ({ r with
          readAhead := ra, txn := none, port := .ready, upSent := s.upSent ++ [.beatOk x] } : State).settle ∧
        ra.get i = .valid line early (slots ++ [.good d.data]) ∧
        (s.fill.filling = false → ra = s.readAhead.set i (.valid line early (slots ++ [.good d.data])))

/-- A FILL grant's end (R135): zero in all 40 bits at the watermark, which rises by one; DONE when it reaches P. -/
def Obligations.FillWrites : Prop :=
  ∀ (s : State) (o : Bool), s.mem.wf = true → s.grant = some ⟨.fill s.fill.watermark, o⟩ → s.fill.filling = true →
    ∃ m, exec .fillWrite s = .next ({ s with
        grant := none, mem := m,
        fill := ⟨decide (s.fill.watermark + 1 < s.straps.populated), s.fill.watermark + 1, s.fill.due⟩ } : State).settle ∧
      Holds m s.mem s.fill.watermark ⟨0, 0, false⟩

/-- INSPECT and its SERVICE grant (R180): the command is refused at P or above and in a reset, and otherwise waits with
its request standing; the grant reads the location as named and answers with what it held and its decode, making no
arrival and raising nothing. -/
def Obligations.InspectCarriedOut : Prop :=
  (∀ (s : State) (loc : BitVec 24), s.handed (.inspect loc) = true →
    (s.straps.populated ≤ loc.toNat → exec (.inspect loc) s = .next (s.finish .badArgument [])) ∧
    (loc.toNat < s.straps.populated → s.resetInProgress = true →
      exec (.inspect loc) s = .next (s.finish .busy [])) ∧
    (loc.toNat < s.straps.populated → s.resetInProgress = false →
      let t : State := { s with executing := s.executing.map fun e => { e with waiting := true } }
      exec (.inspect loc) s = .next t.settle ∧ t.stands .service = true)) ∧
  ∀ (s : State) (loc : Nat) (o : Bool) (u : Upset), s.mem.wf = true → s.grant = some ⟨.service loc, o⟩ →
    Holds (s.mem.disturbed loc u) s.mem loc (s.found loc u) ∧
    exec (.inspectRead u) s = .next (({ s with grant := none, mem := s.mem.disturbed loc u } : State).finish .ok
      (inspectBytes loc (s.found loc u))).settle

/-! ### The arbiter and the translation -/

/-- The end of an event (R64, R73): the read-ahead buffer, then the arbiter. The words that the served FILLING line has
left are filled zero GOOD from its next word on as long as they lie at or above the watermark of a running fill; a line
that is so completed is VALID, and the other line, if FILLING, is served next; nothing else of the buffer changes. While
an operation is in progress nothing else follows, and the scrub is moved on only by words that it skips. That the buffer
is settled before the grant, both within the event, is the model's choice (log 9); that the words of the line that
started later are not filled while the earlier one still reads is the model's reading (log 18). -/
def Obligations.EventEnds : Prop :=
  ∀ s : State,
    let unfilled (a : Nat) : Prop := s.fill.filling = true ∧ s.fill.watermark ≤ (s.translate a).1
    GrantsApart s s.settle ∧
    s.settle = ({ s with readAhead := s.settle.readAhead } : State).arbitrate ∧
    (s.readAhead.served = none ∨ s.fill.filling = false → s.settle.readAhead = s.readAhead) ∧
    (∀ i line early slots, s.readAhead.served = some i → s.readAhead.get i = .filling line early slots →
      slots.length < 8 → ∃ m, slots.length + m ≤ 8 ∧
        (∀ j, slots.length ≤ j → j < slots.length + m → unfilled (8 * line + j)) ∧
        (slots.length + m < 8 → ¬ unfilled (8 * line + slots.length + m) ∧
          s.settle.readAhead =
            s.readAhead.set i (.filling line early (slots ++ List.replicate m (.good 0)))) ∧
        (slots.length + m = 8 → s.settle.readAhead = ({ s with
          readAhead := s.readAhead.set i (.valid line early (slots ++ List.replicate m (.good 0))) } :
            State).settle.readAhead)) ∧
    (s.grant ≠ none → s.settle = { s with readAhead := s.settle.readAhead }) ∧
    ((∀ mode left, s.scrub.run ≠ .running mode (.sweeping left)) → s.settle.scrub = s.scrub)

/-- The arbiter (R64, R66, R67, R141): while an operation is in progress, or a fill is still to begin, no grant is
given; a free array is granted to a counted class at 32, highest ranked first, and otherwise to the highest ranked
class that stands; the counts follow. A SCRUB grant of a word that is skipped ends at once, and the array is granted
again. That no grant is given while a fill is still to begin is R134; that the grant of a skipped word is
given and ended within the arbiter, and is no SCRUB_WORD, is the model's choice (log 9). -/
def Obligations.ArbiterGrants : Prop :=
  ∀ (s : State) (c : ReqClass),
    let counted (k : ReqClass) : Prop := k = .fill ∨ k = .migration ∨ k = .scrub
    let at32 (k : ReqClass) : Prop := s.stands k = true ∧ s.passOver.of k = some 32
    let outranks (k l : ReqClass) : Prop := ReqClass.all.idxOf k < ReqClass.all.idxOf l
    let counts (p : PassOver) : Prop := ∀ k, counted k → p.of k =
      if k = c then some 0
      else if s.stands k then (s.passOver.of k).map fun n => min (n + 1) 32 else s.passOver.of k
    ReqClass.all = [.foreground, .drain, .service, .fill, .migration, .prefetch, .scrub] ∧
    (∀ p : PassOver, p.of .fill = some p.fill ∧ p.of .migration = some p.migration ∧ p.of .scrub = some p.scrub) ∧
    (∀ k, ¬ counted k → s.passOver.of k = none) ∧
    (s.grant ≠ none ∨ s.fill.due = true → s.arbitrate = s) ∧
    (s.winner = some c ↔
      at32 c ∧ (∀ k, at32 k → ¬ outranks k c) ∨
      (∀ k, ¬ at32 k) ∧ s.stands c = true ∧ ∀ k, s.stands k = true → ¬ outranks k c) ∧
    (s.grant = none → s.fill.due = false → s.winner = some c → ¬ (c = .scrub ∧ s.scrubSkips = true) →
      ∃ p, counts p ∧ s.arbitrate = { s with
        grant := (s.grantOp c).map fun op => ⟨op, false⟩, passOver := p,
        queue := if c = .drain then headDraining s.queue else s.queue }) ∧
    (s.grant = none → s.fill.due = false → s.winner = some c → c = .scrub → s.scrubSkips = true →
      s.arbitrate = s.skipWord.arbitrate ∧ counts s.skipWord.passOver) ∧
    (s.grant = none → s.fill.due = false → s.winner = none → s.arbitrate = s)

/-- Which requests stand (R50, R65, R73, R80, R141): the master's read on the array; a locked read while its word has
no queue entry, its line is not COPYING and its location is filled, and no other FOREGROUND request; the drain of a
WAITING head whose location is filled and that is not the word of a copy step in progress; an INSPECT; the fill; the
migration; a prefetch word whose location is filled; a SWEEPING scrub. A copy step is in progress from the grant of its
READ, at the word of the copy cursor (R50); the prefetch reads the next word of the FILLING line that started earlier
(R73). -/
def Obligations.RequestsStand : Prop :=
  ∀ s : State,
    (∀ req marks i, s.txn = some ⟨req, marks, .read i .onArray⟩ →
      s.stands .foreground = true ∧ s.foregroundWord = some (req.address.toNat + i)) ∧
    (∀ req marks i, s.txn = some ⟨req, marks, .read i .onLock⟩ →
      let a := req.address.toNat + i
      (s.stands .foreground = true ↔ (∀ e ∈ s.queue, e.address ≠ a) ∧
        (∀ n cursor o q, s.spareMap.get n ≠ .copying (a / 8) cursor o q) ∧
        (s.fill.filling = false ∨ (s.translate a).1 < s.fill.watermark))) ∧
    ((∀ req marks i, s.txn ≠ some ⟨req, marks, .read i .onArray⟩ ∧ s.txn ≠ some ⟨req, marks, .read i .onLock⟩) →
      s.stands .foreground = false) ∧
    (s.copyStepInProgress = true ↔ ∃ m, s.migration = some m ∧
      (m.stepDue ≠ .read ∨ ∃ a loc k, s.grant = some ⟨.migrationRead a loc k, false⟩)) ∧
    (∀ a, s.copyWord = some a ↔ ∃ m line cursor o q, s.migration = some m ∧
      s.spareMap.get m.slot = .copying line cursor o q ∧ a = 8 * line + cursor) ∧
    (∀ i a, s.prefetchWord = some (i, a) ↔ ∃ line early slots, s.readAhead.get i = .filling line early slots ∧
      a = 8 * line + slots.length ∧ ∀ j l e x, j ≠ i → s.readAhead.get j = .filling l e x →
        (i = 0 ↔ s.readAhead.e0.startedEarlier = true)) ∧
    (∀ e rest, s.queue = e :: rest →
      (s.stands .drain = true ↔ e.stage = .waiting ∧
        (s.fill.filling = false ∨ (s.translate e.address).1 < s.fill.watermark) ∧
        ¬ (s.copyStepInProgress = true ∧ s.copyWord = some e.address))) ∧
    (s.queue = [] → s.stands .drain = false) ∧
    (s.stands .service = true ↔ ∃ loc b w, s.executing = some ⟨.inspect loc, b, w, true⟩) ∧
    (s.stands .fill = true ↔ s.fill.filling = true) ∧
    (s.stands .migration = true ↔ s.migration ≠ none) ∧
    (s.stands .prefetch = true ↔ ∃ i a, s.prefetchWord = some (i, a) ∧
      (s.fill.filling = false ∨ (s.translate a).1 < s.fill.watermark)) ∧
    (s.stands .scrub = true ↔ ∃ mode left, s.scrub.run = .running mode (.sweeping left))

/-- Translation and what a grant names (R52, R60, R61, R119 to R121, R126): the ACTIVE slot's word where an entry is
ACTIVE for the line and the word address otherwise; the location as named for the fill, the migration and INSPECT; for a
drain the COPYING slot's word as well where the offset is below the copy cursor; a FOREGROUND grant is locked exactly
where the transaction's request is. P and V come from SIZE (R2). -/
def Obligations.GrantNamesLocation : Prop :=
  ∀ s : State,
    (∀ a,
      (∀ n line origin, s.spareMap.get n = .active line origin → line = a / 8 →
        (∀ k o, k ≠ n → s.spareMap.get k ≠ .active line o) →
        s.translate a = (s.straps.populated - 64 + 8 * n.val + a % 8, .slot n)) ∧
      ((∀ n origin, s.spareMap.get n ≠ .active (a / 8) origin) → s.translate a = (a, .original)) ∧
      (∀ n cursor origin previous, s.spareMap.get n = .copying (a / 8) cursor origin previous →
        (∀ k c o q, k ≠ n → s.spareMap.get k ≠ .copying (a / 8) c o q) →
        s.dualOf a = if a % 8 < cursor then some (s.straps.populated - 64 + 8 * n.val + a % 8) else none) ∧
      ((∀ n cursor origin previous, s.spareMap.get n ≠ .copying (a / 8) cursor origin previous) → s.dualOf a = none)) ∧
    (s.straps.populated = 2 ^ (16 + min s.straps.size.toNat 6) ∧ s.straps.visible = s.straps.populated - 64 ∧
      s.straps.visibleLines = s.straps.visible / 8) ∧
    (∀ a req marks p, s.foregroundWord = some a → s.txn = some ⟨req, marks, p⟩ → s.grantOp .foreground =
      some (.foreground a (s.translate a).1 (s.translate a).2 req.locked)) ∧
    (∀ a, s.foregroundWord = some a → ∃ req marks i, s.txn = some ⟨req, marks, .read i .onArray⟩ ∧
      a = req.address.toNat + i ∨ s.txn = some ⟨req, marks, .read i .onLock⟩ ∧ a = req.address.toNat + i) ∧
    (∀ e rest, s.queue = e :: rest → s.grantOp .drain =
      some (.drain (s.translate e.address).1 (s.translate e.address).2 (s.dualOf e.address)) ∧
      headDraining s.queue = { e with stage := .draining } :: rest) ∧
    (∀ loc b w, s.executing = some ⟨.inspect loc, b, w, true⟩ → s.grantOp .service = some (.service loc.toNat)) ∧
    s.grantOp .fill = some (.fill s.fill.watermark) ∧
    (∀ n line cursor origin previous source (held : StoredWord),
      s.spareMap.get n = .copying line cursor origin previous →
      let base := s.straps.populated - 64 + 8 * n.val
      (∀ h, s.migration = some ⟨n, source, .read, h⟩ → s.grantOp .migration = some (.migrationRead (8 * line + cursor)
        (match source with
          | .original => 8 * line + cursor
          | .slot p => s.straps.populated - 64 + 8 * p.val + cursor) source)) ∧
      (s.migration = some ⟨n, source, .write, some held⟩ →
        s.grantOp .migration = some (.migrationWrite (base + cursor) held)) ∧
      (s.migration = some ⟨n, source, .verify, some held⟩ →
        s.grantOp .migration = some (.migrationVerify n (base + cursor) held))) ∧
    (∀ i a, s.prefetchWord = some (i, a) → s.grantOp .prefetch =
      some (.prefetch (some i) a (s.translate a).1 (s.translate a).2)) ∧
    s.grantOp .scrub = some (.scrub (8 * s.scrub.line + s.scrub.word)
      (s.translate (8 * s.scrub.line + s.scrub.word)).1 (s.translate (8 * s.scrub.line + s.scrub.word)).2)

/-! ### Detections, records and faults -/

/-- The decision of an offer (R47): NOT_NEEDED where the word has an entry, DROPPED where the queue is full, QUEUED and
appended WAITING with all four lanes and waiter no otherwise; and a delivery report (R107): a record of the word is
marked faulted and takes the offer's answer, and where there is none the report is an arrival with source PREFETCH. -/
def Obligations.OfferDecided : Prop :=
  (∀ (s : State) (kind : EntryKind) (a : Nat) (d : Word),
    ((∃ e ∈ s.queue, e.address = a) → offerAnswer s.queue a = .notNeeded ∧ s.offer kind a d = s) ∧
    ((∀ e ∈ s.queue, e.address ≠ a) → 8 ≤ s.queue.length → offerAnswer s.queue a = .dropped ∧ s.offer kind a d = s) ∧
    ((∀ e ∈ s.queue, e.address ≠ a) → s.queue.length < 8 → offerAnswer s.queue a = .queued ∧
      s.offer kind a d = { s with queue := s.queue ++ [⟨kind, a, d, .full, false, .waiting⟩] })) ∧
  ∀ (s : State) (a : Nat) (kind : Detected) (y : Option Syndrome) (k : Location) (answer : Repair),
    ((∃ r ∈ s.records, r.address = a) → s.deliveryReport a kind y k answer = { s with
      records := s.records.map fun r => if r.address = a then { r with faulted := true, repair := answer } else r }) ∧
    ((∀ r ∈ s.records, r.address ≠ a) →
      s.deliveryReport a kind y k answer = s.arrive ⟨a, k, kind, none, y, .prefetch, answer, true⟩)

/-- An arrival placed in the table (R95 to R101): an update, a reset in place, an append, an eviction of the oldest
evictable record, or a drop. -/
def Obligations.ArrivalPlaced : Prop :=
  ∀ (rs : List ErrRecord) (x : Arrival), RecordsOk rs →
    let made : ErrRecord := ⟨x.address, x.location, x.kind, x.bit, x.syndrome, 1, x.source, x.source, x.repair,
      x.faulted, .opened⟩
    let evicts (r : ErrRecord) : Prop := r.kind = .corrected ∧ (r.state = .opened ∨ r.state = .spared)
    ([.corrected, .uncorrectable, .poisoned] : List Detected).map Detected.rank = [0, 1, 2] ∧
    (∀ i r, rs[i]? = some r → r.address = x.address → r.location = x.location →
      ∃ kind, (kind = r.kind ∨ kind = x.kind) ∧ r.kind.rank ≤ kind.rank ∧ x.kind.rank ≤ kind.rank ∧
        placed rs x = some (rs.set i
          { r with
            count := min (r.count + 1) 255, kind := kind, bit := if kind = .corrected then x.bit else none,
            syndrome := if kind = .poisoned then none else x.syndrome, lastSource := x.source, repair := x.repair,
            faulted := r.faulted || x.faulted })) ∧
    (∀ i r, rs[i]? = some r → r.address = x.address → r.location ≠ x.location → placed rs x = some (rs.set i made)) ∧
    ((∀ r ∈ rs, r.address ≠ x.address) →
      (rs.length < 16 → placed rs x = some (rs ++ [made])) ∧
      (rs.length = 16 → ∀ i r, rs[i]? = some r → evicts r → (∀ j q, j < i → rs[j]? = some q → ¬ evicts q) →
        placed rs x = some (rs.eraseIdx i ++ [made])) ∧
      (rs.length = 16 → (∀ r ∈ rs, ¬ evicts r) → placed rs x = none))

/-- What follows an arrival (R101, R103 to R105): a dropped one raises RECORD_OVERFLOW; an OPEN record that meets the
threshold, or SPARE_ON_UNCORRECTABLE, becomes PROMOTE_PENDING where a slot is FREE and raises SPARE_EXHAUSTED where none
is; nothing else changes. -/
def Obligations.PromotionExamined : Prop :=
  ∀ (s : State) (x : Arrival),
    (placed s.records x = none → s.arrive x = s.occur .recordOverflow) ∧
    ∀ rs r, RecordsOk s.records → placed s.records x = some rs → r ∈ rs → r.address = x.address →
      let meets : Prop := r.state = .opened ∧
        (r.kind = .corrected ∧ s.settings.promoteThreshold ≤ r.count ∨
          s.settings.spareOnUncorrectable = true ∧ r.kind ≠ .corrected)
      (¬ meets → s.arrive x = { s with records := rs }) ∧
      (meets → (∃ n, s.spareMap.get n = .free) →
        s.arrive x = { s with
          records := rs.map fun q => if q.address = x.address then { q with state := .promotePending } else q }) ∧
      (meets → (∀ n, s.spareMap.get n ≠ .free) →
        s.arrive x = ({ s with records := rs } : State).occur .spareExhausted)

/-- An occurrence at the Fault Unit (R152, R153, R155, R157): unrecorded where the source is CLEAR and configured
IGNORE; otherwise SET and counted up to 15, escalated one level where it was SET and its enable is on; the device mode
is brought up and ALERT_N follows; every other source is as it was. A source demands CONTAINED where it is SET at
CONTAIN, HALTED where it is SET at HALT, and NORMAL otherwise (R151, R155). In HALTED a running scrub is PAUSED from its
phase, but for one whose grant is still to end (R146). -/
def Obligations.OccurrenceRecorded : Prop :=
  ((∀ n e, (⟨false, n, e⟩ : FaultRecord).demand = .normal) ∧
    (∀ n e, e = .ignore ∨ e = .note ∨ e = .alert → (⟨true, n, e⟩ : FaultRecord).demand = .normal) ∧
    (∀ n, (⟨true, n, .contain⟩ : FaultRecord).demand = .contained ∧ (⟨true, n, .halt⟩ : FaultRecord).demand = .halted) ∧
    ([.normal, .contained, .halted] : List DeviceMode).map DeviceMode.rank = [0, 1, 2] ∧
    ([.ignore, .note, .alert, .contain, .halt] : List Reaction).map Reaction.rank = [0, 1, 2, 3, 4]) ∧
  (∀ s : State, (s.scrubGranted = true ↔ ∃ a loc k, s.grant = some ⟨.scrub a loc k, false⟩) ∧
    (s.faults.mode = .halted → s.scrubGranted = false → s.pauseIfHalted = { s with scrub := { s.scrub with
      run := match s.scrub.run with
        | .running mode (.sweeping left) => .paused mode (.sweeping left)
        | .running mode (.waiting n _) => .paused mode (.waiting n false)
        | other => other } }) ∧
    (s.faults.mode ≠ .halted ∨ s.scrubGranted = true → s.pauseIfHalted = s)) ∧
  ∀ (s : State) (src : FaultSource),
    let r := s.faults.sources.get src
    let configured := s.settings.reactions.get src
    let t := s.occur src
    let q := t.faults.sources.get src
    (r.set = false → configured = .ignore → t.faults = s.faults) ∧
    (r.set = true ∨ configured ≠ .ignore →
      q.set = true ∧ q.count = min (r.count + 1) 15 ∧
      (r.set = false → q.effective = configured) ∧
      (r.set = true → s.settings.escalate.getLsbD src.place = false → q.effective = r.effective) ∧
      (r.set = true → s.settings.escalate.getLsbD src.place = true →
        q.effective.rank = min (r.effective.rank + 1) 4) ∧
      (∀ k, k ≠ src → t.faults.sources.get k = s.faults.sources.get k) ∧
      t.faults.snapshot = s.faults.snapshot ∧
      (t.faults.mode = s.faults.mode ∨ ∃ k, (t.faults.sources.get k).demand = t.faults.mode) ∧
      s.faults.mode.rank ≤ t.faults.mode.rank ∧
      (∀ k, (t.faults.sources.get k).demand.rank ≤ t.faults.mode.rank) ∧
      (t.faults.alert = true ↔
        ∃ k, (t.faults.sources.get k).set = true ∧ 2 ≤ (t.faults.sources.get k).effective.rank)) ∧
    (t.faults.mode = .halted → s.scrubGranted = false → t.scrub = { s.scrub with
      run := match s.scrub.run with
        | .running mode (.sweeping left) => .paused mode (.sweeping left)
        | .running mode (.waiting n _) => .paused mode (.waiting n false)
        | other => other }) ∧
    (t.faults.mode ≠ .halted ∨ s.scrubGranted = true → t.scrub = s.scrub) ∧
    t = { s with faults := t.faults, scrub := t.scrub }

/-! ### Line sparing -/

/-- The engine starts by itself (R116 to R118): on the oldest PROMOTE_PENDING record whose line is free of the lock, in
the lowest FREE slot, and not at all where there is none. Where no slot is FREE the line's records return to OPEN with
one SPARE_EXHAUSTED, and the engine examines its conditions again at once: the other PROMOTE_PENDING lines that are free
of the lock follow in the same way, oldest first, with one SPARE_EXHAUSTED for each. That all of it is one step is the
model's choice (log 25). -/
def Obligations.MigrationStarts : Prop :=
  ∀ (s : State) (i : Nat) (r : ErrRecord),
    let line := r.address / 8
    (∀ l, (s.lineLocked l = true ↔ (∃ x, s.lock = some x ∧ x.address / 8 = l) ∨
        ∃ a loc k o, s.grant = some ⟨.foreground a loc k true, o⟩ ∧ a / 8 = l) ∧
      (∀ n, activeSlot s.spareMap l = some n → ∃ o, s.spareMap.get n = .active l o) ∧
      (activeSlot s.spareMap l = none → ∀ n o, s.spareMap.get n ≠ .active l o) ∧
      sourceOf s.spareMap l = match activeSlot s.spareMap l with | some p => .slot p | none => .original) ∧
    (s.migration ≠ none ∨ s.fill.filling = true ∨ s.resetInProgress = true → exec .migrationStart s = .next s) ∧
    ((∀ q ∈ s.records, q.state = .promotePending → s.lineLocked (q.address / 8) = true) →
      exec .migrationStart s = .next s) ∧
    (s.migration = none → s.fill.filling = false → s.resetInProgress = false → s.records[i]? = some r →
      r.state = .promotePending → s.lineLocked line = false →
      (∀ j q, j < i → s.records[j]? = some q → q.state = .promotePending → s.lineLocked (q.address / 8) = true) →
      (∀ n, s.spareMap.get n = .free → (∀ k, s.spareMap.get k = .free → n ≤ k) →
        exec .migrationStart s = .next ({ s with
            spareMap := s.spareMap.set n (.copying line 0 .promotion (activeSlot s.spareMap line)),
            migration := some ⟨n, (match activeSlot s.spareMap line with | some p => .slot p | none => .original),
              .read, none⟩,
            records := s.records.map fun q =>
              if q.address / 8 = line ∧ q.state = .promotePending then { q with state := .migrating }
              else q } : State).settle) ∧
      ((∀ n, s.spareMap.get n ≠ .free) →
        let released : State := ({ s with
          records := s.records.map fun q =>
            if q.address / 8 = line ∧ (q.state = .promotePending ∨ q.state = .migrating) then { q with state := .opened }
            else q } : State).occur .spareExhausted
        ((∀ q ∈ s.records, q.state = .promotePending → s.lineLocked (q.address / 8) = false → q.address / 8 = line) →
          exec .migrationStart s = .next released.settle) ∧
        ∀ q ∈ s.records, q.state = .promotePending → s.lineLocked (q.address / 8) = false → q.address / 8 ≠ line →
          exec .migrationStart s = exec .migrationStart released))

/-- The READ and WRITE grants of a copy step (R119, R120): the held word by the decode, the arrival with repair MOVED
and the fault, the array not written and the WRITE due; then the held word stored and the VERIFY due. -/
def Obligations.CopyStepReadsAndWrites : Prop :=
  (∀ (s : State) (a loc : Nat) (k : Location) (u : Upset) (m : Migration), s.mem.wf = true →
     s.grant = some ⟨.migrationRead a loc k, false⟩ → s.migration = some m →
     let w := s.found loc u
     let d := decode w
     let r : State := { s with grant := none, mem := s.mem.disturbed loc u }
     let holds (x : State) (held : StoredWord) : State :=
       { x with migration := some { m with stepDue := .write, held := some held } }
     Holds (s.mem.disturbed loc u) s.mem loc w ∧
     (d.outcome = .clean → exec (.migrationRead u) s = .next (holds r (encoded w.data)).settle) ∧
     (d.outcome = .corrected → exec (.migrationRead u) s = .next
       (holds ((r.arrive ⟨a, k, .corrected, d.bit, d.syndrome, .migration, .moved, false⟩).occur .corrected)
         (encoded d.data)).settle) ∧
     ∀ kind : Detected, d.outcome = .uncorrectable ∧ kind = .uncorrectable ∨ d.outcome = .poisoned ∧ kind = .poisoned →
       exec (.migrationRead u) s = .next
         (holds ((r.arrive ⟨a, k, kind, none, d.syndrome, .migration, .moved, true⟩).occur .backgroundUncorrectable)
           ⟨w.data, w.code, true⟩).settle) ∧
  ∀ (s : State) (loc : Nat) (w : StoredWord) (m : Migration), s.mem.wf = true →
    s.grant = some ⟨.migrationWrite loc w, false⟩ → s.migration = some m →
    ∃ mem, exec .migrationWrite s =
      .next ({ s with grant := none, mem := mem, migration := some { m with stepDue := .verify } } : State).settle ∧
      Holds mem s.mem loc w

/-- The VERIFY grant of a copy step (R121 to R124): equal in all 40 bits, the cursor rises, and at 8 the migration
completes; different, the slot is retired and the copy restarts in the lowest FREE slot or is abandoned. -/
def Obligations.CopyStepVerifies : Prop :=
  ∀ (s : State) (n : Fin 8) (loc : Nat) (w : StoredWord) (u : Upset) (m : Migration) (line cursor : Nat)
    (origin : Origin) (previous : Option (Fin 8)), s.mem.wf = true →
    s.grant = some ⟨.migrationVerify n loc w, false⟩ → s.migration = some m →
    s.spareMap.get n = .copying line cursor origin previous →
    let r : State := { s with grant := none, mem := s.mem.disturbed loc u }
    (s.found loc u = w → cursor + 1 < 8 → exec (.migrationVerify u) s = .next ({ r with
        spareMap := s.spareMap.set n (.copying line (cursor + 1) origin previous),
        migration := some { m with stepDue := .read, held := none } } : State).settle) ∧
    (s.found loc u = w → cursor = 7 → ∃ map, exec (.migrationVerify u) s = .next ({ r with
        spareMap := map, migration := none,
        records := s.records.map fun q =>
          if q.address / 8 = line ∧ q.state ≠ .spared then { q with state := .spared } else q } : State).settle ∧
      map.get n = .active line origin ∧
      ∀ k, k ≠ n → map.get k = if previous = some k then .retired else s.spareMap.get k) ∧
    (s.found loc u ≠ w → ∀ k, s.spareMap.get k = .free → (∀ j, s.spareMap.get j = .free → k ≤ j) →
      exec (.migrationVerify u) s = .next (({ r with
          spareMap := (s.spareMap.set n .retired).set k (.copying line 0 origin previous),
          migration := some { m with slot := k, stepDue := .read, held := none } } : State).occur
            .migrationFailed).settle) ∧
    (s.found loc u ≠ w → (∀ k, s.spareMap.get k ≠ .free) → exec (.migrationVerify u) s = .next ((({ r with
        spareMap := s.spareMap.set n .retired, migration := none,
        records := s.records.map fun q =>
          if q.address / 8 = line ∧ (q.state = .promotePending ∨ q.state = .migrating) then
            { q with state := .opened }
          else q } : State).occur .migrationFailed).occur .spareExhausted).settle)

/-- A PROMOTE_PENDING or MIGRATING record is never removed from the table but by power-on (R102). Of one arrival: a
record of the pinned record's word is there after it (R95, R100), as it was where the arrival is for another word, in
its state where the arrival is from its location, and still pinned after the promotion is examined but where an arrival
from another location has reset it in place (R98). Of a command: after every command a record of its word is there,
CLOSE_RECORD (R109) and CLEAR_RECORDS (R110) among them. FOREGROUND_READ and PREFETCH_READ, which can make a second
arrival by a BAD slot of a later beat, are the ones that can reset a record in place and then evict it, so of them it is
said where the grant is not for its word from another location. -/
def Obligations.PinnedRecordsKept : Prop :=
  let pinned (r : ErrRecord) : Prop := r.state = .promotePending ∨ r.state = .migrating
  (∀ (rs table : List ErrRecord) (x : Arrival) (r : ErrRecord), RecordsOk rs → r ∈ rs → pinned r →
    placed rs x = some table →
    (∃ q ∈ table, q.address = r.address) ∧ (x.address ≠ r.address → r ∈ table) ∧
    (x.address = r.address → x.location = r.location → ∃ q ∈ table, q.address = r.address ∧ q.state = r.state)) ∧
  (∀ (s : State) (x : Arrival) (r : ErrRecord), RecordsOk s.records → r ∈ s.records → pinned r →
    (∃ q ∈ (s.arrive x).records, q.address = r.address) ∧
    ((x.address = r.address → x.location = r.location) →
      ∃ q ∈ (s.arrive x).records, q.address = r.address ∧ pinned q)) ∧
  ∀ (c : Instr) (s t : State) (r : ErrRecord), (∀ straps level, c ≠ .powerOn straps level) →
    RecordsOk s.records → r ∈ s.records → pinned r →
    (∀ u, c ≠ .foregroundRead u ∧ c ≠ .prefetchRead u) ∨
      (∀ a loc k locked o, s.grant = some ⟨.foreground a loc k locked, o⟩ → a = r.address → k = r.location) ∧
      (∀ e a loc k o, s.grant = some ⟨.prefetch e a loc k, o⟩ → a = r.address → k = r.location) →
    exec c s = .next t → ∃ q ∈ t.records, q.address = r.address

/-! ### The scrub and the timers -/

/-- A scrub grant's end (R141, R146): the write-back or the mark, the arrival, the fault, and the cursors; the scrub
pauses where the mode is then HALTED (that it does not where the mode has been lowered before the grant ends is the
model's choice, log 29). A word with a queue entry, a lock or a COPYING line is skipped (R141): no array access, one
more skipped, the cursors advanced and the pass-over counts as after a grant to SCRUB (R67): SCRUB's 0, and those of
FILL and MIGRATION one higher where they stand, up to 32. That the arbiter makes the skip, and no SCRUB_WORD, is the
model's choice (log 9). -/
def Obligations.ScrubWordEnds : Prop :=
  (∀ (s : State) (a loc : Nat) (k : Location) (u : Upset), s.mem.wf = true →
     s.grant = some ⟨.scrub a loc k, false⟩ → s.stopWaits = false →
     let w := s.found loc u
     let d := decode w
     let ends (x : State) : State := ({ x with
       scrub := x.scrub.advance x.settings (x.straps.visible / 8), grant := none } : State).pauseIfHalted
     (d.outcome = .clean → ∃ m, exec (.scrubWord u) s = .next (ends { s with mem := m }).settle ∧
       Holds m s.mem loc w) ∧
     (d.outcome = .corrected → ∃ m, exec (.scrubWord u) s = .next (ends ((({ s with mem := m } : State).arrive
         ⟨a, k, .corrected, d.bit, d.syndrome, .scrub, .direct, false⟩).occur .corrected)).settle ∧
       Holds m s.mem loc (encoded d.data)) ∧
     (d.outcome = .uncorrectable → ∃ m, exec (.scrubWord u) s = .next (ends ((({ s with mem := m } : State).arrive
         ⟨a, k, .uncorrectable, none, d.syndrome, .scrub, .none, true⟩).occur .backgroundUncorrectable)).settle ∧
       Holds m s.mem loc ⟨w.data, w.code, true⟩) ∧
     (d.outcome = .poisoned → ∃ m, exec (.scrubWord u) s = .next
       (ends (({ s with mem := m } : State).arrive ⟨a, k, .poisoned, none, none, .scrub, .none, false⟩)).settle ∧
       Holds m s.mem loc w)) ∧
  ∀ s : State,
    let a := 8 * s.scrub.line + s.scrub.word
    (s.scrubSkips = true ↔ (∃ e ∈ s.queue, e.address = a) ∨ (∃ l, s.lock = some l ∧ l.address = a) ∨
      ∃ n cursor o q, s.spareMap.get n = .copying (a / 8) cursor o q) ∧
    let passed (class' : ReqClass) (n : Nat) : Nat := if s.stands class' then min (n + 1) 32 else n
    s.skipWord = { s with
      passOver := {
        fill := passed .fill s.passOver.fill, migration := passed .migration s.passOver.migration, scrub := 0 },
      scrub := { s.scrub with skipped := min (s.scrub.skipped + 1) 65535 }.advance s.settings
        (s.straps.visible / 8) }

/-- The cursors after a word's grant (R142, R143): the next word; the next line; the end of a block; the end of a SINGLE
pass; the end of a CONTINUOUS pass. With base b and fraction f, eight consecutive intervals sum to 8 b + f from any
accumulator, and the accumulator is back where it started. -/
def Obligations.ScrubCursorsAdvance : Prop :=
  (∀ (sc : Scrub) (mode : ScrubMode) (left : Nat) (st : Settings) (lines : Nat),
     sc.run = .running mode (.sweeping left) →
     let t := sc.advance st lines
     let sum := sc.accumulator + st.pacerFraction
     let rests (x : Scrub) : Scrub := { x with
       run := .running mode (.waiting (if 8 ≤ sum then st.pacerBase + 1 else st.pacerBase) false),
       accumulator := if 8 ≤ sum then sum - 8 else sum }
     (sc.word < 7 → t = { sc with word := sc.word + 1 }) ∧
     (sc.word = 7 → sc.line < st.scrubEndLine → 1 < left →
       t = { sc with word := 0, line := sc.line + 1, run := .running mode (.sweeping (left - 1)) }) ∧
     (sc.word = 7 → sc.line < st.scrubEndLine → left = 1 → t = rests { sc with word := 0, line := sc.line + 1 }) ∧
     (sc.word = 7 → sc.line = st.scrubEndLine → mode = .single →
       t = { sc with
         word := 0, line := if sc.line + 1 < lines then sc.line + 1 else sc.line, passes := sc.passes + 1,
         run := .stopped }) ∧
     (sc.word = 7 → sc.line = st.scrubEndLine → mode = .continuous →
       t = rests { sc with word := 0, line := st.scrubStartLine, passes := sc.passes + 1, skipped := 0 })) ∧
  (∀ base fraction acc n : Nat, carries base fraction 0 acc = (0, acc) ∧ carries base fraction (n + 1) acc =
    ((carry base fraction acc).1 + (carries base fraction n (carry base fraction acc).2).1,
      (carries base fraction n (carry base fraction acc).2).2)) ∧
  (∀ base fraction acc : Nat, acc ≤ 7 → fraction ≤ 7 →
    carries base fraction 8 acc = (8 * base + fraction, acc)) ∧
  ∀ base fraction acc : Nat, carry base fraction acc =
    if 8 ≤ acc + fraction then (base + 1, acc + fraction - 8) else (base, acc + fraction)

/-- The end of a tick (R82, R144, R146, R147): a present hold time and a running interval fall by one, the tick that
brings either to 0 makes its expiry due (log 2), a PAUSED interval is kept, and the next tick has the TICK_DIVISOR that
then stands. A TICK that finds an expiry still due takes it first, the lock's before the interval's (the model's choice:
logs 2 and 31). The expiry of the hold timer (R83), HELD or BROKEN, ends the lock and raises LOCK_FAULT once; that of
the interval (R144) makes the scrub SWEEP with SCRUB_BLOCK lines left and the word at the cursors due. -/
def Obligations.TicksAndExpiries : Prop :=
  (∀ s : State, s.lockExpiryDue = false → s.scrub.expiryDue = false →
     let lock : Option Lock := s.lock.map fun l =>
       match l.remaining with
       | none => l
       | some n => if 1 < n then { l with remaining := some (n - 1) } else { l with expiryDue := true }
     let run : ScrubRun :=
       match s.scrub.run with
       | .running mode (.waiting n due) =>
         .running mode (if 1 < n then .waiting (n - 1) due else .waiting n true)
       | other => other
     exec .tick s = .next ({ s with
       lock := lock, scrub := { s.scrub with run := run }, tickLength := s.settings.tickDivisor } : State).settle) ∧
  (∀ s : State,
     (s.lockExpiryDue = true ↔ ∃ l, s.lock = some l ∧ l.expiryDue = true) ∧
     (s.scrub.expiryDue = true ↔ ∃ mode n, s.scrub.run = .running mode (.waiting n true)) ∧
     (s.lockExpiryDue = true → exec .tick s = exec .tick (({ s with lock := none } : State).occur .lockFault)) ∧
     ∀ mode n, s.lockExpiryDue = false → s.scrub.run = .running mode (.waiting n true) → exec .tick s =
       exec .tick { s with scrub := { s.scrub with run := .running mode (.sweeping s.settings.scrubBlock) } }) ∧
  (∀ (s : State),
     (∀ l, s.lock = some l → l.expiryDue = true →
       exec .lockHoldExpiry s = .next (({ s with lock := none } : State).occur .lockFault).settle) ∧
     ((∀ l, s.lock = some l → l.expiryDue = false) → exec .lockHoldExpiry s = .next s)) ∧
  ∀ (s : State) (mode : ScrubMode) (n : Nat), s.scrub.run = .running mode (.waiting n true) →
    let t : State := { s with scrub := { s.scrub with run := .running mode (.sweeping s.settings.scrubBlock) } }
    exec .scrubIntervalExpiry s = .next t.settle ∧ t.stands .scrub = true

/-! ### The service link -/

/-- The start bit and the return to idle (R164, R165, R169): in idle the receiver begins a character at the timing in
use, its accumulator 0, and restarts a running frame timer; a high majority is a false start; after power-on and after
a break it returns to idle by its own step. The model's readings: a false start restarts the frame timer too (log 22),
the return is no step of its own after a character or a framing error (log 14), and outside idle a start bit changes
nothing (log 1). -/
def Obligations.ReceiverStartsAndReturns : Prop :=
  (∀ (s : State) (x : BitVec 3),
    (s.link.receiver = .idle → exec (.startBitDetected x) s = .next { s with
      link := { s.link with
        receiver := if 2 ≤ (List.range 3).countP (fun i => x.getLsbD i) then .idle
          else .receiving (decide (x ≠ 0)),
        rxAcc := 0, rxTiming := s.link.inUse, frameTimer := s.link.frameTimer.map fun _ => 0 } }) ∧
    (s.link.receiver ≠ .idle → exec (.startBitDetected x) s = .next s)) ∧
  ∀ s : State,
    (s.link.receiver = .powerUp ∨ s.link.receiver = .afterBreak → exec .receiverReturnsToIdle s =
      .next { s with link := { s.link with receiver := .idle } }) ∧
    (s.link.receiver ≠ .powerUp → s.link.receiver ≠ .afterBreak → exec .receiverReturnsToIdle s = .next s)

/-- The end of a character (R163, R165, R166, R169): a good character or a framing-error marker at the tail of the FIFO,
or lost with overrun pending where it holds 4; a running frame timer restarts, and the receiver's accumulator stands as
after eleven bit times, or twelve where all the bits were low (R164). That the receiver is idle at once, and not once
the line is high, is the model's reading (log 14). Each bit is the majority of its three samples, the data bits least
significant first, then the mark and the stop, and the character is noisy where the samples of some bit disagree (R163,
R165); so a character sent without noise has the byte and the mark it was sent with, and no noise. -/
def Obligations.CharacterDelivered : Prop :=
  (∀ (s : State) (x : BitVec 30) (noise : Bool), s.link.receiver = .receiving noise →
     let item : FifoItem :=
       if stopOf x then .character (byteOf x) (markOf x) (noise || noisy x) else .framingError
     ∃ t acc, exec (.characterReceived x) s = .next t ∧
       t = { s with link := { s.link with
         receiver := .idle, rxAcc := acc, frameTimer := s.link.frameTimer.map fun _ => 0,
         fifo := if s.link.fifo.length < 4 then s.link.fifo ++ [item] else s.link.fifo,
         overrun := decide (4 ≤ s.link.fifo.length) || s.link.overrun } } ∧
       (s.link.rxTiming.fraction ≤ 7 → acc = s.link.rxTiming.fraction *
         (if byteOf x = 0 ∧ markOf x = false ∧ stopOf x = false then 12 else 11) % 8)) ∧
  (∀ x : BitVec 30,
     let high (k : Nat) : Nat := (List.range 3).countP fun j => x.getLsbD (3 * k + j)
     (∀ k < 8, (byteOf x).getLsbD k = decide (2 ≤ high k)) ∧ markOf x = decide (2 ≤ high 8) ∧
     stopOf x = decide (2 ≤ high 9) ∧ (noisy x = true ↔ ∃ k < 10, high k = 1 ∨ high k = 2)) ∧
  (∀ (b : Byte) (mark : Bool), ∀ j < 3, (∀ k < 8, (cleanSamples b mark).getLsbD (3 * k + j) = b.getLsbD k) ∧
    (cleanSamples b mark).getLsbD (24 + j) = mark ∧ (cleanSamples b mark).getLsbD (27 + j) = true) ∧
  ∀ (b : Byte) (mark : Bool), stopOf (cleanSamples b mark) = true ∧ byteOf (cleanSamples b mark) = b ∧
    markOf (cleanSamples b mark) = mark ∧ noisy (cleanSamples b mark) = false

/-- A break (R165, R166, R172): the FIFO emptied and no overrun pending in every parser state; a frame discarded; a
response withdrawn, the command going on; a response cut after whole characters, never with its last (where it cuts: log
13), which have gone out on SVC_TX bit by bit, and SVC_TX released (R163), the transmitter's accumulator as after eleven
bit times for each of them (R164). -/
def Obligations.BreakResetsParser : Prop :=
  ∀ (s : State) (noise : Bool) (n : Nat), s.link.receiver = .receiving noise → 1 ≤ n →
    ∃ t acc, exec (.breakReceived n) s = .next t ∧
      let l : Link := { s.link with receiver := .afterBreak, rxAcc := acc, fifo := [], overrun := false }
      (s.link.rxTiming.fraction ≤ 7 → acc = s.link.rxTiming.fraction * 12 % 8) ∧
      (s.link.parser = .hunt → t = { s with link := l }) ∧
      (s.link.parser = .collect → t = { s with link := { l with parser := .hunt, frameTimer := none } }) ∧
      (s.link.parser = .execute → t = { s with
        link := { l with parser := .hunt, frameTimer := none },
        executing := s.executing.map fun e => { e with withdrawn := true } }) ∧
      ∀ cs b, s.link.parser = .respond cs b → ∃ k tx, (2 ≤ cs.length → 1 ≤ k ∧ k < cs.length) ∧
        (n < cs.length → k = n) ∧
        (s.link.inUse.fraction ≤ 7 → tx = s.link.inUse.fraction * (11 * (cs.take k).length) % 8) ∧ t = { s with
        link := { l with
          parser := .hunt, frameTimer := none, txAcc := tx, svcTx := .released,
          inUse := ⟨s.settings.linkDivisor, s.settings.linkFraction⟩ },
        svcSent := s.svcSent ++ [(cs.take k).flatMap sentBits], resetDue := s.resetDue || b }

/-- An item taken (R166 to R168). In HUNT an address character naming the station or 63 opens a frame and every other
item is ignored; in COLLECT a field is filled, a bad length, a marker or a foreign address discards the frame, and an
address naming the station or 63 begins a new one; an overrun that is pending takes the freed place. The frame timer
starts as COLLECT is entered and stops as it is left (R169); that it restarts where an address character opens a frame
again in COLLECT is the model's reading (log 22). -/
def Obligations.ParserTakesItem : Prop :=
  (∀ (s : State) (item : FifoItem) (rest : List FifoItem), s.link.parser = .hunt → s.link.fifo = item :: rest →
     let l : Link := { s.link with
       fifo := if s.link.overrun then rest ++ [.overrun] else rest, overrun := false }
     (∀ b noise, item = .character b true noise → b = 63 ∨ b.toNat = s.straps.station.toNat →
       exec .parserTakesItem s = .next { s with
         link := { l with
           parser := .collect, frameTimer := some 0,
           frame := ⟨decide (b = 63), 0, 0, [], 0, .command, noise⟩ } }) ∧
     ((∀ b noise, item = .character b true noise → b ≠ 63 ∧ b.toNat ≠ s.straps.station.toNat) →
       exec .parserTakesItem s = .next { s with link := l })) ∧
  ∀ (s : State) (item : FifoItem) (rest : List FifoItem), s.link.parser = .collect → s.link.fifo = item :: rest →
    s.link.frame.position ≠ .complete →
    let f := s.link.frame
    let l : Link := { s.link with
      fifo := if s.link.overrun then rest ++ [.overrun] else rest, overrun := false }
    let discarded : State := { s with link := { l with parser := .hunt, frameTimer := none } }
    let filled (g : Frame) : State := { s with link := { l with frame := g } }
    (∀ b noise, item = .character b false noise →
      (f.position = .command → exec .parserTakesItem s = .next (filled { f with
        command := b, position := .length, noise := f.noise || noise })) ∧
      (f.position = .length → 32 < b.toNat → exec .parserTakesItem s = .next discarded) ∧
      (f.position = .length → b.toNat ≤ 32 → exec .parserTakesItem s = .next (filled { f with
        length := b.toNat, position := if b = 0 then .checksum else .payload, noise := f.noise || noise })) ∧
      (f.position = .payload → exec .parserTakesItem s = .next (filled { f with
        payload := f.payload ++ [b],
        position := if f.payload.length + 1 < f.length then .payload else .checksum,
        noise := f.noise || noise }))) ∧
    (∀ b noise, item = .character b true noise → b = 63 ∨ b.toNat = s.straps.station.toNat →
      exec .parserTakesItem s = .next { s with
        link := { l with
          frameTimer := some 0, frame := ⟨decide (b = 63), 0, 0, [], 0, .command, noise⟩ } }) ∧
    (∀ b noise, item = .character b true noise → b ≠ 63 → b.toNat ≠ s.straps.station.toNat →
      exec .parserTakesItem s = .next discarded) ∧
    (item = .framingError ∨ item = .overrun → exec .parserTakesItem s = .next discarded)

/-- A frame that its checksum character completes (R168, R170): it waits while the Command Unit is busy, and otherwise
passes to its checks: its sum, its command and its length, in that order; a frame that fails is answered with that
status or, broadcast, dropped; one that passes is handed to the Command Unit and the parser is in EXECUTE. That a frame
that fails passes through EXECUTE within the event is the model's choice (log 30). The commands by their codes, the
bytes of their arguments, and how a payload spells them, least significant byte first (R175, R177 to R182). -/
def Obligations.CompleteFrameChecked : Prop :=
  (byteSum [] = 0 ∧ ∀ (b : Byte) (bs : List Byte), byteSum (b :: bs) = b + byteSum bs) ∧
  (∀ b : Byte, argumentBytes b = if b = 0 then none else
    ([0, 0, 0, 2, 0, 2, 3, 0, 0, 3, 1, 0, 1, 5, 3, 0] : List Nat)[b.toNat - 1]?) ∧
  (svcCommand 0x01 [] = some .identify ∧ svcCommand 0x02 [] = some .readStatus ∧
    svcCommand 0x03 [] = some .readFaults ∧ svcCommand 0x05 [] = some .releaseMode ∧
    svcCommand 0x08 [] = some .clearRecords ∧ svcCommand 0x09 [] = some .readSpareMap ∧
    svcCommand 0x0C [] = some .scrubStop ∧ svcCommand 0x10 [] = some .resetPart ∧
    ∀ a b c d e : Byte, svcCommand 0x04 [a, b] = some (.clearFaults (b ++ a)) ∧
      svcCommand 0x06 [a, b] = some (.readRecords a b) ∧ svcCommand 0x07 [a, b, c] = some (.closeRecord (c ++ b ++ a)) ∧
      svcCommand 0x0A [a, b, c] = some (.spareLine (c ++ b ++ a)) ∧ svcCommand 0x0B [a] = some (.scrubStart a) ∧
      svcCommand 0x0D [a] = some (.getSetting a) ∧
      svcCommand 0x0E [a, b, c, d, e] = some (.setSetting a (e ++ d ++ c ++ b)) ∧
      svcCommand 0x0F [a, b, c] = some (.inspect (c ++ b ++ a))) ∧
  (∀ (s : State) (b : Byte) (noise : Bool) (rest : List FifoItem), s.link.parser = .collect →
    s.link.fifo = .character b false noise :: rest → s.link.frame.position = .checksum →
    let t : State := { s with link := { s.link with
      fifo := if s.link.overrun then rest ++ [.overrun] else rest, overrun := false, frameTimer := none,
      frame := { s.link.frame with
        checksum := b, position := .complete, noise := s.link.frame.noise || noise } } }
    (s.executing ≠ none → exec .parserTakesItem s = .next t) ∧
    (s.executing = none → exec .parserTakesItem s = .next t.checkFrame)) ∧
  ∀ s : State,
    let f := s.link.frame
    let sum := byteSum (f.command :: BitVec.ofNat 8 f.length :: (f.payload ++ [f.checksum]))
    let answered (st : Status) : State :=
      if f.broadcast then { s with link := { s.link with parser := .hunt, frameTimer := none } }
      else { s with link := { s.link with
        parser := .respond (response st [] f.noise) false, txAcc := 0, frameTimer := none, svcTx := .sending } }
    (sum ≠ 0 → s.checkFrame = answered .badChecksum) ∧
    (sum = 0 → argumentBytes f.command = none → s.checkFrame = answered .unknownCommand) ∧
    (∀ n, sum = 0 → argumentBytes f.command = some n → f.length ≠ n → s.checkFrame = answered .badLength) ∧
    (sum = 0 → argumentBytes f.command = some f.length → ∃ c, svcCommand f.command f.payload = some c ∧
      s.checkFrame = { s with
        link := { s.link with parser := .execute, frameTimer := none },
        executing := some ⟨c, f.broadcast, false, false⟩ })

/-- The end of a response and of a frame timer (R164, R169, R171, R181): a response that has been sent leaves the parser
in HUNT, a change of link timing in force and the reset of a RESET_PART due; an expiry discards the frame. The
characters of a response (R171): the status byte with the noise marker on top, the length, the payload for OK alone, and
the checksum that brings the sum to 0 modulo 256; the status codes are 0 to 6 (R173). On SVC_TX each goes out as eleven
bits (R163): start low, the byte least significant bit first, mark low, stop high, the line driven low for a low bit and
released for a high one, and released after the last; the transmitter's accumulator stands as after eleven bit times for
each (R164). -/
def Obligations.ResponseSentAndTimerExpired : Prop :=
  ((∀ (s : State) (cs : List Byte) (b : Bool), s.link.parser = .respond cs b →
     ∃ t tx, exec .responseSent s = .next t ∧ t = { s with
       link := { s.link with
         parser := .hunt, frameTimer := none, txAcc := tx, svcTx := .released,
         inUse := ⟨s.settings.linkDivisor, s.settings.linkFraction⟩ },
       svcSent := s.svcSent ++ [cs.flatMap sentBits], resetDue := s.resetDue || b } ∧
       (s.link.inUse.fraction ≤ 7 → tx = s.link.inUse.fraction * (11 * cs.length) % 8)) ∧
   ∀ s : State,
     (s.link.parser = .collect → s.link.frameTimer.isSome = true → exec .frameTimerExpiry s =
       .next { s with link := { s.link with parser := .hunt, frameTimer := none } }) ∧
     (s.link.parser ≠ .collect → exec .frameTimerExpiry s = .next s)) ∧
  (∀ b : Byte, (sentBits b).length = 11 ∧ (sentBits b)[0]? = some .low ∧ (sentBits b)[9]? = some .low ∧
    (sentBits b)[10]? = some .released ∧
    ∀ k < 8, (sentBits b)[k + 1]? = some (if b.getLsbD k then .released else .low)) ∧
  ([.ok, .badChecksum, .badLength, .unknownCommand, .badArgument, .busy, .refused] : List Status).map Status.code =
    [0, 1, 2, 3, 4, 5, 6] ∧
  ∀ (st : Status) (payload : List Byte) (noise : Bool), payload.length ≤ 32 →
    byteSum (response st payload noise) = 0 ∧
    ∃ x, response st payload noise =
      BitVec.ofNat 8 (st.code + if noise then 128 else 0) ::
        BitVec.ofNat 8 (if st = .ok then payload.length else 0) :: ((if st = .ok then payload else []) ++ [x])

/-! ### Service commands -/

/-- The end of a command (R170 to R172, R181): a unicast one is answered; a broadcast one, and one whose response a
break has withdrawn, sends nothing, and a change of link timing and a RESET_PART then take effect. A complete frame that
waited behind a withdrawn command then passes to its checks, which CompleteFrameChecked states. A command is handed to
the Command Unit while it is carried out and does not wait for a grant (log 23). -/
def Obligations.CommandEnds : Prop :=
  (∀ (s : State) (c : SvcCommand), s.handed c = true ↔ ∃ b w, s.executing = some ⟨c, b, w, false⟩) ∧
  ∀ (s : State) (e : Execution) (st : Status) (payload : List Byte), s.executing = some e →
    let timing : Timing := ⟨s.settings.linkDivisor, s.settings.linkFraction⟩
    let due : Bool := s.resetDue || decide (e.command = .resetPart)
    (e.withdrawn = false → e.broadcast = false → s.finish st payload = { s with
      executing := none,
      link := { s.link with
        parser := .respond (response st payload s.link.frame.noise) (decide (e.command = .resetPart)),
        txAcc := 0, frameTimer := none, svcTx := .sending } }) ∧
    (e.withdrawn = false → e.broadcast = true → s.finish st payload = { s with
      executing := none, resetDue := due,
      link := { s.link with parser := .hunt, frameTimer := none, inUse := timing } }) ∧
    (e.withdrawn = true → ¬ (s.link.parser = .collect ∧ s.link.frame.position = .complete) →
      s.finish st payload = { s with
        executing := none, resetDue := due, link := { s.link with inUse := timing } }) ∧
    (e.withdrawn = true → s.link.parser = .collect → s.link.frame.position = .complete →
      s.finish st payload = ({ s with
        executing := none, resetDue := due, link := { s.link with inUse := timing } } : State).checkFrame)

/-- The four reports (R162, R176) and RESET_PART (R181): each is answered OK with its payload and changes nothing else;
the reset of a RESET_PART is due when its response has ended. What the payloads hold, field by field at its bytes:
IDENTIFY, READ_STATUS and READ_FAULTS (R185), the Spare Map and INSPECT (R184), and a record (R183). The bits of
READ_STATUS and READ_FAULTS that the layouts name no field for are 0: the model's choice (log 33). -/
def Obligations.AnsweredWithNothingElse : Prop :=
  (∀ s : State,
    (s.handed .identify = true → exec .identify s = .next (s.finish .ok (identifyBytes s.straps))) ∧
    (s.handed .readStatus = true → exec .readStatus s = .next (s.finish .ok s.statusBytes)) ∧
    (s.handed .readFaults = true → exec .readFaults s = .next (s.finish .ok s.faultBytes)) ∧
    (s.handed .readSpareMap = true → exec .readSpareMap s = .next (s.finish .ok (spareMapBytes s.spareMap))) ∧
    (s.handed .resetPart = true → exec .resetPart s = .next (s.finish .ok []))) ∧
  (∀ c : Straps,
    let b := identifyBytes c
    b.length = 13 ∧ bytesAt b 0 2 = 0x0B57 ∧ bytesAt b 2 2 = 417 ∧ bytesAt b 4 1 = 1 ∧
    bytesAt b 5 3 = c.populated ∧ bytesAt b 8 3 = c.populated - 64 ∧ bytesAt b 11 1 = c.station.toNat ∧
    bytesAt b 12 1 = c.size.toNat + if c.preserve then 8 else 0) ∧
  (∀ s : State,
    let b := s.statusBytes
    b.length = 22 ∧
    bytesAt b 0 1 = (match s.faults.mode with | .normal => 0 | .contained => 1 | .halted => 2) ∧
    (b.getD 1 0).getLsbD 0 = s.resetInProgress ∧ (b.getD 1 0).getLsbD 1 = s.fill.filling ∧
    ((b.getD 1 0).getLsbD 2 = true ↔ ∃ src, s.faults.snapshot.get src = true) ∧
    bytesAt b 1 1 / 8 % 4 =
      (match s.lock with | none => 0 | some l => match l.state with | .held => 1 | .broken => 2) ∧
    (b.getD 1 0).getLsbD 5 = s.migration.isSome ∧ bytesAt b 1 1 < 64 ∧
    bytesAt b 2 3 = s.fill.watermark % 2 ^ 24 ∧
    (s.scrub.word ≤ 7 → bytesAt b 5 1 = 16 * s.scrub.word + match s.scrub.run with
      | .stopped => 0 | .running _ (.sweeping _) => 1 | .running _ (.waiting _ _) => 2 | .paused _ _ => 3) ∧
    bytesAt b 6 3 = s.scrub.line % 2 ^ 24 ∧ bytesAt b 9 2 = s.scrub.passes.toNat ∧
    bytesAt b 11 2 = s.scrub.skipped % 2 ^ 16 ∧ bytesAt b 13 1 = s.queue.length % 2 ^ 8 ∧
    bytesAt b 14 1 = s.records.length % 2 ^ 8 ∧
    bytesAt b 15 3 = (match s.lock with | none => 0 | some l => l.address % 2 ^ 24) ∧
    (s.migration = none → bytesAt b 18 1 = 0 ∧ bytesAt b 19 3 = 0) ∧
    ∀ m line cursor o q, s.migration = some m → s.spareMap.get m.slot = .copying line cursor o q → cursor ≤ 8 →
      bytesAt b 18 1 = m.slot.val + 16 * cursor ∧ bytesAt b 19 3 = line % 2 ^ 24) ∧
  (∀ (s : State) (src : FaultSource),
    let b := s.faultBytes
    let r := s.faults.sources.get src
    b.length = 20 ∧
    (r.count ≤ 15 → bytesAt b (2 * src.place) 1 = r.count + if r.set then 128 else 0) ∧
    bytesAt b (2 * src.place + 1) 1 = (s.settings.reactions.get src).rank + 16 * r.effective.rank ∧
    (bytesAt b 18 2).testBit src.place = s.faults.snapshot.get src ∧ bytesAt b 18 2 < 512) ∧
  (∀ (map : PerSlot SpareEntry) (n : Fin 8),
    let b := spareMapBytes map
    let from' (o : Origin) : Nat := match o with | .promotion => 0 | .command => 4
    b.length = 32 ∧
    bytesAt b (4 * n.val) 1 = (match map.get n with
      | .free => 0
      | .copying _ _ o none => 1 + from' o
      | .copying _ _ o (some k) => 1 + from' o + 8 + 16 * k.val
      | .active _ o => 2 + from' o
      | .retired => 3) ∧
    bytesAt b (4 * n.val + 1) 3 = match map.get n with
      | .copying line cursor _ _ => (line + 2 ^ 20 * cursor) % 2 ^ 24
      | .active line _ => line % 2 ^ 24
      | _ => 0) ∧
  (∀ (loc : Nat) (w : StoredWord),
    let b := inspectBytes loc w
    b.length = 15 ∧ bytesAt b 0 3 = loc % 2 ^ 24 ∧ bytesAt b 3 4 = w.data.toNat ∧
    bytesAt b 7 1 = w.code.toNat + (if w.mark then 128 else 0) ∧
    bytesAt b 8 1 = (match (decode w).outcome with
      | .clean => 0 | .corrected => 1 | .uncorrectable => 2 | .poisoned => 3) ∧
    bytesAt b 9 1 = encodeSyndrome (decode w).syndrome ∧ bytesAt b 10 1 = encodeBit (decode w).bit ∧
    bytesAt b 11 4 = (decode w).data.toNat) ∧
  (∀ (r : ErrRecord) (index : Nat),
    let b := r.bytes index
    b.length = 14 ∧ bytesAt b 0 3 = r.address % 2 ^ 24 ∧
    bytesAt b 3 1 = (match r.location with | .original => 0 | .slot n => 8 + n.val) ∧
    bytesAt b 4 1 = (match r.kind with | .corrected => 1 | .uncorrectable => 2 | .poisoned => 3) ∧
    bytesAt b 5 1 = encodeBit r.bit ∧ bytesAt b 6 1 = encodeSyndrome r.syndrome ∧
    bytesAt b 7 1 = r.count % 2 ^ 8 ∧ bytesAt b 8 1 = r.firstSource.encode ∧ bytesAt b 9 1 = r.lastSource.encode ∧
    bytesAt b 10 1 = r.repair.encode ∧ bytesAt b 11 1 = (if r.faulted then 1 else 0) ∧
    bytesAt b 12 1 = (match r.state with
      | .opened => 0 | .promotePending => 1 | .migrating => 2 | .spared => 3) ∧
    bytesAt b 13 1 = index % 2 ^ 8) ∧
  (([.read, .lockedRead, .prefetch, .merge, .scrub, .migration] : List Source).map Source.encode = [1, 2, 3, 4, 5, 6] ∧
    ([.none, .queued, .dropped, .notNeeded, .byWrite, .direct, .moved] : List Repair).map Repair.encode =
      [0, 1, 2, 3, 4, 5, 6]) ∧
  encodeBit none = 0xFF ∧ (∀ n : Fin 32, encodeBit (some (.data n)) = n.val) ∧
  (∀ k : Fin 7, encodeBit (some (.check k)) = 0x20 + k.val) ∧ encodeSyndrome none = 0xFF ∧
  ∀ y : Syndrome, encodeSyndrome (some y) = y.s.toNat + if y.odd then 64 else 0

/-- CLEAR_FAULTS (R158, R177): a mask with a bit above 8 changes nothing; otherwise each selected source is CLEAR with
count 0 at its configured reaction, the others and the device mode are kept, ALERT_N follows, and all nine selected
empty the snapshot. RELEASE_MODE (R156): the device mode becomes the highest level a SET source demands; no source and
not ALERT_N changes; a fall from HALTED resumes the scrub (R146); OK in every case. -/
def Obligations.FaultsClearedAndModeReleased : Prop :=
  (∀ (s : State) (mask : BitVec 16), s.handed (.clearFaults mask) = true →
     (512 ≤ mask.toNat → exec (.clearFaults mask) s = .next (s.finish .badArgument [])) ∧
     (mask.toNat < 512 → ∃ fu, exec (.clearFaults mask) s =
         .next (({ s with faults := fu } : State).finish .ok []) ∧
       (∀ src, fu.sources.get src =
         if mask.getLsbD src.place then ⟨false, 0, s.settings.reactions.get src⟩ else s.faults.sources.get src) ∧
       fu.mode = s.faults.mode ∧
       (fu.alert = true ↔ ∃ src, (fu.sources.get src).set = true ∧ 2 ≤ (fu.sources.get src).effective.rank) ∧
       (mask = 0x1FF → ∀ src, fu.snapshot.get src = false) ∧ (mask ≠ 0x1FF → fu.snapshot = s.faults.snapshot))) ∧
  ∀ (s : State), s.handed .releaseMode = true →
     ∃ mode, exec .releaseMode s = .next (({ s with
         faults := { s.faults with mode := mode },
         scrub := if mode = .halted then s.scrub else
           match s.scrub.run with
           | .paused m p => { s.scrub with run := .running m p }
           | _ => s.scrub } : State).finish .ok []).settle ∧
       (∀ src, (s.faults.sources.get src).demand.rank ≤ mode.rank) ∧
       (mode = .normal ∨ ∃ src, (s.faults.sources.get src).demand = mode)

/-- READ_RECORDS (R108, R178): the record at index, and for count 2 the next, where they are there, and BAD_ARGUMENT
otherwise; CLOSE_RECORD and CLEAR_RECORDS (R109, R110): an unpinned record is removed by its word address, a pinned one
is REFUSED, an address without one is BAD_ARGUMENT; CLEAR_RECORDS keeps the pinned ones in their order. -/
def Obligations.RecordCommands : Prop :=
  (∀ (s : State) (index count : Byte), s.handed (.readRecords index count) = true →
     (∀ r, count = 1 → s.records[index.toNat]? = some r →
       exec (.readRecords index count) s = .next (s.finish .ok (r.bytes index.toNat))) ∧
     (∀ r q, count = 2 → s.records[index.toNat]? = some r → s.records[index.toNat + 1]? = some q →
       exec (.readRecords index count) s =
         .next (s.finish .ok (r.bytes index.toNat ++ q.bytes (index.toNat + 1)))) ∧
     (¬ ((count = 1 ∨ count = 2) ∧ index.toNat + count.toNat ≤ s.records.length) →
       exec (.readRecords index count) s = .next (s.finish .badArgument []))) ∧
  (∀ (s : State) (a : BitVec 24), s.handed (.closeRecord a) = true → RecordsOk s.records →
    ((∀ r ∈ s.records, r.address ≠ a.toNat) → exec (.closeRecord a) s = .next (s.finish .badArgument [])) ∧
    (∀ i r, s.records[i]? = some r → r.address = a.toNat → r.state = .opened ∨ r.state = .spared →
      exec (.closeRecord a) s = .next (({ s with records := s.records.eraseIdx i } : State).finish .ok [])) ∧
    (∀ r ∈ s.records, r.address = a.toNat → r.state = .promotePending ∨ r.state = .migrating →
      exec (.closeRecord a) s = .next (s.finish .refused []))) ∧
  ∀ s : State, s.handed .clearRecords = true →
    exec .clearRecords s = .next (({ s with
      records := s.records.filter fun r => decide (r.state = .promotePending ∨ r.state = .migrating) } : State).finish
        .ok [])

/-- SPARE_LINE (R129, R179), in the rule's order: BAD_ARGUMENT, BUSY, REFUSED, or the start of the migration with origin
COMMAND in the lowest FREE slot, whose number is the answer. -/
def Obligations.LineSparedByCommand : Prop :=
  ∀ (s : State) (x : BitVec 24), s.handed (.spareLine x) = true →
    let line := x.toNat
    let busy : Prop := s.resetInProgress = true ∨ s.fill.filling = true ∨ s.migration ≠ none ∨
      (∃ l, s.lock = some l ∧ l.address / 8 = line) ∨
      ∃ a loc k o, s.grant = some ⟨.foreground a loc k true, o⟩ ∧ a / 8 = line
    (s.straps.visible / 8 ≤ line → exec (.spareLine x) s = .next (s.finish .badArgument [])) ∧
    (line < s.straps.visible / 8 → busy → exec (.spareLine x) s = .next (s.finish .busy [])) ∧
    (line < s.straps.visible / 8 → ¬ busy →
      ((∀ n, s.spareMap.get n ≠ .free) → exec (.spareLine x) s = .next (s.finish .refused [])) ∧
      ∀ n, s.spareMap.get n = .free → (∀ k, s.spareMap.get k = .free → n ≤ k) →
        exec (.spareLine x) s = .next (({ s with
            spareMap := s.spareMap.set n (.copying line 0 .command (activeSlot s.spareMap line)),
            migration := some ⟨n, (match activeSlot s.spareMap line with | some p => .slot p | none => .original),
              .read, none⟩,
            records := s.records.map fun q =>
              if q.address / 8 = line ∧ q.state = .promotePending then { q with state := .migrating }
              else q } : State).finish .ok [BitVec.ofNat 8 n.val]).settle)

/-- SCRUB_START (R140, R179): a bad mode first, then BUSY unless STOPPED with the fill DONE and no reset in progress;
otherwise the run begins at SCRUB_START_LINE, PAUSED in HALTED, with the pass count kept. SCRUB_STOP (R145): with no
SCRUB grant in progress the scrub is STOPPED at once and the cursors, the accumulator and the counts are kept; with one,
the command waits, and the grant's end makes its write and its report (R141), advances the cursors, stops the scrub and
answers. That the word's R142 is applied in full, a pass end with its count and its accumulator too, is the model's
reading (log 24). With a grant that a system reset has left to finish the scrub is STOPPED at once and the command waits
for the grant's end (R179): that it is stopped before the end is the model's reading (log 28), and the repair DIRECT of
such a grant's CORRECTED word the model's choice (log 32). -/
def Obligations.ScrubCommands : Prop :=
  (∀ (s : State) (x : Byte), s.handed (.scrubStart x) = true →
     let busy : Prop := s.scrub.run ≠ .stopped ∨ s.fill.filling = true ∨ s.resetInProgress = true
     (x ≠ 0 → x ≠ 1 → exec (.scrubStart x) s = .next (s.finish .badArgument [])) ∧
     (x = 0 ∨ x = 1 → busy → exec (.scrubStart x) s = .next (s.finish .busy [])) ∧
     ∀ mode, x = 0 ∧ mode = .single ∨ x = 1 ∧ mode = .continuous → ¬ busy → exec (.scrubStart x) s = .next (({ s with
         scrub := ⟨if s.faults.mode = .halted then .paused mode (.sweeping s.settings.scrubBlock)
             else .running mode (.sweeping s.settings.scrubBlock),
           s.settings.scrubStartLine, 0, 0, s.scrub.passes, 0⟩ } : State).finish .ok []).settle) ∧
  (∀ s : State, (s.stopWaits = true ↔ ∃ b w, s.executing = some ⟨.scrubStop, b, w, true⟩) ∧
    (s.scrubInProgress = true ↔ ∃ a loc k o, s.grant = some ⟨.scrub a loc k, o⟩)) ∧
  (∀ s : State, s.handed .scrubStop = true →
    let waits : Option Execution := s.executing.map fun e => { e with waiting := true }
    ((∀ a loc k o, s.grant ≠ some ⟨.scrub a loc k, o⟩) → exec .scrubStop s =
      .next (({ s with scrub := { s.scrub with run := .stopped } } : State).finish .ok []).settle) ∧
    (∀ a loc k, s.grant = some ⟨.scrub a loc k, false⟩ → exec .scrubStop s = .next { s with executing := waits }) ∧
    (∀ a loc k, s.grant = some ⟨.scrub a loc k, true⟩ → exec .scrubStop s =
      .next { s with scrub := { s.scrub with run := .stopped }, executing := waits })) ∧
  ∀ (s : State) (a loc : Nat) (k : Location) (o : Bool) (u : Upset), s.mem.wf = true →
    s.grant = some ⟨.scrub a loc k, o⟩ → s.stopWaits = true →
    let w := s.found loc u
    let d := decode w
    let ends (x : State) : State :=
      let moved := if o then x.scrub else x.scrub.advance x.settings (x.straps.visible / 8)
      ({ x with grant := none, scrub := { moved with run := .stopped } } : State).finish .ok []
    (d.outcome = .clean → ∃ m, exec (.scrubWord u) s = .next (ends { s with mem := m }).settle ∧ Holds m s.mem loc w) ∧
    (d.outcome = .corrected → ∃ m, exec (.scrubWord u) s = .next (ends ((({ s with mem := m } : State).arrive
        ⟨a, k, .corrected, d.bit, d.syndrome, .scrub, .direct, false⟩).occur .corrected)).settle ∧
      Holds m s.mem loc (encoded d.data)) ∧
    (d.outcome = .uncorrectable → ∃ m, exec (.scrubWord u) s = .next (ends ((({ s with mem := m } : State).arrive
        ⟨a, k, .uncorrectable, none, d.syndrome, .scrub, .none, true⟩).occur .backgroundUncorrectable)).settle ∧
      Holds m s.mem loc ⟨w.data, w.code, true⟩) ∧
    (d.outcome = .poisoned → ∃ m, exec (.scrubWord u) s = .next
        (ends (({ s with mem := m } : State).arrive ⟨a, k, .poisoned, none, none, .scrub, .none, false⟩)).settle ∧
      Holds m s.mem loc w)

/-- GET_SETTING and SET_SETTING (R138, R182): an unknown item is BAD_ARGUMENT; a value that is put is the one that is
got; a scrub item is BUSY while the scrub runs; no other setting changes. The settings table (R182): each item's
setting, its encoding and its range; a value outside the range, and an item that is in no row, are not put. -/
def Obligations.SettingsReadAndWritten : Prop :=
  (([.readUncorrectable, .writeMergeFailed, .backgroundUncorrectable, .recordOverflow, .spareExhausted, .migrationFailed,
      .accessRefused, .lockFault, .corrected] : List FaultSource).map FaultSource.place = [0, 1, 2, 3, 4, 5, 6, 7, 8] ∧
    ∀ item : Byte, isReactionItem item = true ↔ ∃ src : FaultSource, src.item = item) ∧
  (∀ (s : State) (item : Byte), s.handed (.getSetting item) = true →
    (∀ v, s.settings.value item = some v → exec (.getSetting item) s =
      .next (s.finish .ok [BitVec.ofNat 8 v, BitVec.ofNat 8 (v / 2 ^ 8), BitVec.ofNat 8 (v / 2 ^ 16),
        BitVec.ofNat 8 (v / 2 ^ 24)])) ∧
    (s.settings.value item = none → exec (.getSetting item) s = .next (s.finish .badArgument []))) ∧
  (∀ (s : State) (item : Byte) (v : Word), isReactionItem item = false → s.handed (.setSetting item v) = true →
    let lines := s.straps.visible / 8
    let scrubItem : Prop := item = 0x0A ∨ item = 0x0B ∨ item = 0x0C
    (s.settings.put lines item v.toNat = none → exec (.setSetting item v) s = .next (s.finish .badArgument [])) ∧
    ∀ st, s.settings.put lines item v.toNat = some st →
      (scrubItem → s.scrub.run ≠ .stopped → exec (.setSetting item v) s = .next (s.finish .busy [])) ∧
      (scrubItem → s.scrub.run = .stopped → item ≠ 0x0C → st.scrubEndLine < st.scrubStartLine →
        exec (.setSetting item v) s = .next (s.finish .badArgument [])) ∧
      (¬ scrubItem ∨ s.scrub.run = .stopped ∧ (item = 0x0C ∨ st.scrubStartLine ≤ st.scrubEndLine) →
        exec (.setSetting item v) s = .next (({ s with settings := st } : State).finish .ok []))) ∧
  (∀ (st su : Settings) (lines : Nat) (item : Byte) (v : Nat), st.put lines item v = some su →
    su.value item = some v ∧ (∀ other, other ≠ item → su.value other = st.value other)) ∧
  (∀ st : Settings,
    st.value 0x01 = some (match st.posting with | .posted => 0 | .through => 1) ∧
    st.value 0x02 = some (match st.rangePolicy with | .error => 0 | .quiet => 1) ∧
    st.value 0x03 = some st.guardLo.toNat ∧ st.value 0x04 = some st.guardHi.toNat ∧
    st.value 0x05 = some (if st.readAhead then 1 else 0) ∧ st.value 0x06 = some st.lockLimit ∧
    st.value 0x07 = some st.promoteThreshold ∧ st.value 0x08 = some (if st.spareOnUncorrectable then 1 else 0) ∧
    st.value 0x09 = some st.escalate.toNat ∧ st.value 0x0A = some st.scrubStartLine ∧
    st.value 0x0B = some st.scrubEndLine ∧ st.value 0x0C = some st.scrubBlock ∧ st.value 0x0D = some st.pacerBase ∧
    st.value 0x0E = some st.pacerFraction ∧ st.value 0x0F = some st.tickDivisor ∧
    st.value 0x10 = some st.linkDivisor ∧ st.value 0x11 = some st.linkFraction ∧
    (∀ src : FaultSource, src.item = BitVec.ofNat 8 (0x21 + src.place) ∧
      st.value src.item = some (st.reactions.get src).rank) ∧
    ∀ item : Byte, ¬ (1 ≤ item.toNat ∧ item.toNat ≤ 0x11) → ¬ (0x21 ≤ item.toNat ∧ item.toNat ≤ 0x29) →
      st.value item = none) ∧
  ∀ (st : Settings) (lines v : Nat),
    let one (item : Byte) (lo hi : Nat) (su : Settings) : Prop :=
      st.put lines item v = if lo ≤ v ∧ v ≤ hi then some su else none
    one 0x01 0 1 { st with posting := if v = 0 then .posted else .through } ∧
    one 0x02 0 1 { st with rangePolicy := if v = 0 then .error else .quiet } ∧
    one 0x03 0 (2 ^ 32 - 1) { st with guardLo := BitVec.ofNat 32 v } ∧
    one 0x04 0 (2 ^ 32 - 1) { st with guardHi := BitVec.ofNat 32 v } ∧
    one 0x05 0 1 { st with readAhead := decide (v = 1) } ∧ one 0x06 1 255 { st with lockLimit := v } ∧
    one 0x07 1 15 { st with promoteThreshold := v } ∧
    one 0x08 0 1 { st with spareOnUncorrectable := decide (v = 1) } ∧
    one 0x09 0 0x1FF { st with escalate := BitVec.ofNat 9 v } ∧
    one 0x0A 0 (lines - 1) { st with scrubStartLine := v } ∧ one 0x0B 0 (lines - 1) { st with scrubEndLine := v } ∧
    one 0x0C 1 256 { st with scrubBlock := v } ∧ one 0x0D 1 65535 { st with pacerBase := v } ∧
    one 0x0E 0 7 { st with pacerFraction := v } ∧ one 0x0F 1 255 { st with tickDivisor := v } ∧
    one 0x10 16 65535 { st with linkDivisor := v } ∧ one 0x11 0 7 { st with linkFraction := v } ∧
    (∀ (src : FaultSource) (r : Reaction), r.rank = v →
      st.put lines src.item v = some { st with reactions := st.reactions.set src r }) ∧
    (∀ src : FaultSource, 4 < v → st.put lines src.item v = none) ∧
    ([.ignore, .note, .alert, .contain, .halt] : List Reaction).map Reaction.rank = [0, 1, 2, 3, 4] ∧
    ∀ item : Byte, ¬ (1 ≤ item.toNat ∧ item.toNat ≤ 0x11) → ¬ (0x21 ≤ item.toNat ∧ item.toNat ≤ 0x29) →
      st.put lines item v = none

/-- SET_SETTING of REACTION_n (R154, R182): a value above 4 is BAD_ARGUMENT; otherwise the configured reaction changes;
the effective reaction of a CLEAR source follows, that of a SET source only rises; the device mode and ALERT_N follow.
In HALTED a running scrub is PAUSED from its phase, but for one whose grant is still to end, which goes on (R146). -/
def Obligations.ReactionSet : Prop :=
  ∀ (s : State) (src : FaultSource) (v : Word), s.handed (.setSetting src.item v) = true →
    (4 < v.toNat → exec (.setReaction src v) s = .next (s.finish .badArgument [])) ∧
    ∀ r : Reaction, r.rank = v.toNat → ∃ u : State, exec (.setReaction src v) s = .next (u.finish .ok []).settle ∧
      u = { s with settings := u.settings, faults := u.faults, scrub := u.scrub } ∧
      u.settings = { s.settings with reactions := s.settings.reactions.set src r } ∧
      (∀ k, k ≠ src → u.faults.sources.get k = s.faults.sources.get k) ∧
      (let q := s.faults.sources.get src
       u.faults.sources.get src =
        { q with effective := if q.set = true ∧ r.rank ≤ q.effective.rank then q.effective else r }) ∧
      u.faults.snapshot = s.faults.snapshot ∧ s.faults.mode.rank ≤ u.faults.mode.rank ∧
      (u.faults.mode = s.faults.mode ∨ ∃ k, (u.faults.sources.get k).demand = u.faults.mode) ∧
      (∀ k, (u.faults.sources.get k).demand.rank ≤ u.faults.mode.rank) ∧
      (u.faults.alert = true ↔
        ∃ k, (u.faults.sources.get k).set = true ∧ 2 ≤ (u.faults.sources.get k).effective.rank) ∧
      (u.faults.mode ≠ .halted ∨ s.scrubGranted = true → u.scrub = s.scrub) ∧
      (u.faults.mode = .halted → s.scrubGranted = false → u.scrub = { s.scrub with
        run := match s.scrub.run with
          | .running mode (.sweeping left) => .paused mode (.sweeping left)
          | .running mode (.waiting n _) => .paused mode (.waiting n false)
          | other => other })

/-! ### Power-on and reset -/

/-- POWER_ON (R39, R57, R68, R77, R112, R131, R133, R148, R161, R174): every block in its power-on state with the straps
given, and the fill granted from location 0. The settings have the reset values of R182 and R150, item by item. The
length of the first tick (log 26), the link timing in use and the fields of the empty frame buffer (log 15), and that
what has been sent and the commands that wait are kept (log 21), are the model's. -/
def Obligations.PowerOnState : Prop :=
  (∀ straps : Straps, ∃ rs, Settings.initial straps = ⟨.posted, .error, 0, 0, false, 16, 3, false, 0, 0,
      straps.visible / 8 - 1, 16, 1000, 0, 32, 217, 0, rs⟩ ∧
    ([.readUncorrectable, .writeMergeFailed, .backgroundUncorrectable, .recordOverflow, .spareExhausted, .migrationFailed,
      .accessRefused, .lockFault, .corrected] : List FaultSource).map rs.get =
      [.alert, .alert, .note, .note, .alert, .note, .alert, .note, .ignore] ∧ rs = defaultReactions) ∧
  ∀ (straps : Straps) (level : Bool) (s : State), ∃ t, exec (.powerOn straps level) s = .next t ∧
    t.straps = straps ∧ t.rstN = level ∧ t.port = (if level then .ready else .reset) ∧ t.txn = none ∧
    t.held = none ∧ t.lock = none ∧ t.queue = [] ∧ t.readAhead = ⟨.empty, .empty⟩ ∧
    t.grant = some ⟨.fill 0, false⟩ ∧ t.passOver = ⟨0, 0, 0⟩ ∧ (∀ n, t.spareMap.get n = .free) ∧
    t.migration = none ∧ t.records = [] ∧ t.fill = ⟨true, 0, false⟩ ∧ t.scrub = ⟨.stopped, 0, 0, 0, 0, 0⟩ ∧
    (∀ src, t.faults.sources.get src = ⟨false, 0, defaultReactions.get src⟩ ∧ t.faults.snapshot.get src = false) ∧
    t.faults.mode = .normal ∧ t.faults.alert = false ∧ t.settings = .initial straps ∧ t.executing = none ∧
    t.resetInProgress = false ∧ t.resetDue = false ∧
    t.link.receiver = .powerUp ∧ t.link.fifo = [] ∧ t.link.overrun = false ∧ t.link.rxAcc = 0 ∧ t.link.txAcc = 0 ∧
    t.link.parser = .hunt ∧ t.link.frameTimer = none ∧ t.link.svcTx = .released ∧ t.tickLength = 32 ∧
    t.link.inUse = ⟨217, 0⟩ ∧ t.link.rxTiming = ⟨217, 0⟩ ∧ t.link.frame = ⟨false, 0, 0, [], 0, .command, false⟩ ∧
    t.upSent = s.upSent ∧ t.svcSent = s.svcSent ∧ t.pending = s.pending

/-- A system reset (R8, R38, R58, R59, R68, R77, R90, R112, R132, R134, R148, R160, R174): RST_N falling, or the reset
of a RESET_PART that is due, each followed by the end of the event. A grant in progress is left to finish, a PREFETCH
grant without its entry. Where a fill is to run, a DRAINING head alone is kept, to be finished; the pass-over counts
return to 0. -/
def Obligations.SystemResetActs : Prop :=
  ∀ (cause : ResetCause) (s : State),
    (cause = .rstnFalls ∧ s.rstN = true ∨ cause = .resetPart ∧ s.resetDue = true) →
    let fillRuns : Prop := s.straps.preserve = false ∨ s.fill.filling = true ∨ s.fill.due = true
    let unwaited (q : List Entry) : List Entry := q.map fun e => { e with waiter := false }
    ∃ t : State, exec (.systemReset cause) s = .next t.settle ∧
      t = { s with
        rstN := t.rstN, port := .reset, txn := none, lock := none, queue := t.queue, readAhead := ⟨.empty, .empty⟩,
        grant := t.grant, passOver := ⟨0, 0, 0⟩, spareMap := t.spareMap, migration := none, records := t.records,
        fill := t.fill, scrub := { s.scrub with run := .stopped }, faults := t.faults, resetInProgress := true,
        resetDue := t.resetDue } ∧
      t.rstN = (if cause = .rstnFalls then false else s.rstN) ∧
      t.resetDue = (if cause = .resetPart then false else s.resetDue) ∧
      (fillRuns → t.queue = unwaited (s.queue.filter fun e => e.stage = .draining)) ∧
      (¬ fillRuns → t.queue = unwaited s.queue ∧ t.fill = s.fill) ∧
      (fillRuns → s.grant = none → t.fill = ⟨true, 0, false⟩) ∧
      (fillRuns → s.grant ≠ none → t.fill = { s.fill with due := true }) ∧
      (s.grant = none → t.grant = none) ∧
      (∀ g, s.grant = some g →
        ((∀ e a loc k, g.op ≠ .prefetch e a loc k) → t.grant = some ⟨g.op, true⟩) ∧
        ∀ e a loc k, g.op = .prefetch e a loc k → t.grant = some ⟨.prefetch none a loc k, true⟩) ∧
      (∀ n, t.spareMap.get n = if (s.spareMap.get n).isCopying then .free else s.spareMap.get n) ∧
      t.records = s.records.map (fun r => if r.state = .migrating then { r with state := .promotePending } else r) ∧
      t.faults.mode = .normal ∧ t.faults.alert = false ∧
      ∀ src, t.faults.sources.get src = ⟨false, 0, s.settings.reactions.get src⟩ ∧
        t.faults.snapshot.get src = (s.faults.snapshot.get src || (s.faults.sources.get src).set)

/-- The ends of a reset (R38, R39, R59, R134): RST_N rising lets the power-on RESET end at once; a system reset
completes only when RST_N is high, the queue is empty and no fill is still to begin; a fill that is due begins at
location 0 only when the array is free. -/
def Obligations.ResetEnds : Prop :=
  ∀ s : State,
    (s.rstN = false → exec .rstNRises s = .next { s with
      rstN := true, port := if s.port = .reset ∧ s.resetInProgress = false then .ready else s.port }) ∧
    (s.rstN = true → exec .rstNRises s = .next s) ∧
    (s.resetInProgress = true → s.rstN = true → s.queue = [] → s.fill.due = false →
      exec .resetCompletes s = .next ({ s with resetInProgress := false, port := .ready } : State).settle) ∧
    (¬ (s.resetInProgress = true ∧ s.rstN = true ∧ s.queue = [] ∧ s.fill.due = false) →
      exec .resetCompletes s = .next s) ∧
    (s.fill.due = true → s.grant = none →
      exec .fillBegins s = .next ({ s with fill := ⟨true, 0, false⟩ } : State).settle) ∧
    (s.fill.due = true → s.grant ≠ none → exec .fillBegins s = .next s)

/-! ### Invariants of every step -/

/-- Every step keeps the array's canonical form. -/
def Obligations.ArrayStaysCanonical : Prop :=
  ∀ s t : State, s.mem.wf = true → step s = .next t → t.mem.wf = true

/-- Every step keeps the queue as R40 to R42 say, and the table as R91 and R92 say. -/
def Obligations.QueueAndTableStayWellFormed : Prop :=
  (∀ s t : State, QueueOk s.queue → step s = .next t → QueueOk t.queue) ∧
    ∀ s t : State, RecordsOk s.records → step s = .next t → RecordsOk t.records

/-- Every step keeps the Fault Unit as R149, R155 and R157 say. -/
def Obligations.FaultUnitStaysConsistent : Prop :=
  ∀ s t : State, FaultsOk s.faults s.settings.reactions → step s = .next t →
    FaultsOk t.faults t.settings.reactions

/-- Every step keeps the Spare Map and the engine as R113 and R115 say. -/
def Obligations.SpareMapStaysConsistent : Prop :=
  ∀ s t : State, MapOk s.spareMap s.migration → step s = .next t → MapOk t.spareMap t.migration

/-- Every step keeps what the fill, a reset and HALTED hold off held off, the watermark in its place, the pass-over
counts at 32 or below, and a SCRUB_STOP waiting only for a SCRUB grant (R67, R116, R133 to R136, R139, R146, R179), in a
state whose Fault Unit is consistent, which FaultUnitStaysConsistent says every step keeps (R155: RELEASE_MODE never
raises the device mode). -/
def Obligations.EnginesStayHeldOff : Prop :=
  ∀ s t : State, FaultsOk s.faults s.settings.reactions → EnginesOk s ∧ FillOk s ∧ CountsOk s.passOver → step s = .next t →
    EnginesOk t ∧ FillOk t ∧ CountsOk t.passOver

/-- Every step keeps the settings, the tick, the lock and the scrub record in their ranges (R78, R138, R139, R182). -/
def Obligations.TimersStayInRange : Prop :=
  ∀ s t : State, TimersOk s → step s = .next t → TimersOk t

/-- Every step keeps the link and the command in execution as R164 to R172 say. -/
def Obligations.LinkStaysConsistent : Prop :=
  ∀ s t : State, ServiceOk s → step s = .next t → ServiceOk t

/-- The invariants hold right after power-on. -/
def Obligations.InvariantsHoldAtReset : Prop :=
  State.reset.mem.wf = true ∧ QueueOk State.reset.queue ∧ RecordsOk State.reset.records ∧
    FaultsOk State.reset.faults State.reset.settings.reactions ∧
    MapOk State.reset.spareMap State.reset.migration ∧ EnginesOk State.reset ∧ FillOk State.reset ∧
    CountsOk State.reset.passOver ∧ TimersOk State.reset ∧ ServiceOk State.reset

end SpecStatements
end

