-- ==== Sys2Proof/Laws/State.lean ====
section
/-! SUPPORT. What each shared operation leaves unchanged, field by field: the lemmas to cite in place of unfolding it.
-/

namespace Sys2Proof.Machine

/-- A response is only sent. -/
@[simp] theorem State.respond_frame (s : State) (r : UpResponse) :
    (s.respond r).rstN = s.rstN ∧ (s.respond r).straps = s.straps ∧ (s.respond r).mem = s.mem ∧
    (s.respond r).port = s.port ∧ (s.respond r).txn = s.txn ∧ (s.respond r).held = s.held ∧
    (s.respond r).lock = s.lock ∧ (s.respond r).queue = s.queue ∧ (s.respond r).readAhead = s.readAhead ∧
    (s.respond r).grant = s.grant ∧ (s.respond r).passOver = s.passOver ∧ (s.respond r).spareMap = s.spareMap ∧
    (s.respond r).migration = s.migration ∧ (s.respond r).records = s.records ∧ (s.respond r).fill = s.fill ∧
    (s.respond r).scrub = s.scrub ∧ (s.respond r).faults = s.faults ∧ (s.respond r).settings = s.settings ∧
    (s.respond r).link = s.link ∧ (s.respond r).executing = s.executing ∧ (s.respond r).tickLength = s.tickLength ∧
    (s.respond r).resetInProgress = s.resetInProgress ∧ (s.respond r).resetDue = s.resetDue ∧
    (s.respond r).svcSent = s.svcSent ∧ (s.respond r).pending = s.pending :=
  ⟨rfl, rfl, rfl, rfl, rfl, rfl, rfl, rfl, rfl, rfl, rfl, rfl, rfl, rfl, rfl, rfl, rfl, rfl, rfl, rfl, rfl, rfl, rfl, rfl, rfl⟩

/-- The end of a transaction reaches the port alone. -/
@[simp] theorem State.endTransaction_frame (s : State) :
    (s.endTransaction).rstN = s.rstN ∧ (s.endTransaction).straps = s.straps ∧ (s.endTransaction).mem = s.mem ∧
    (s.endTransaction).held = s.held ∧ (s.endTransaction).lock = s.lock ∧ (s.endTransaction).queue = s.queue ∧
    (s.endTransaction).readAhead = s.readAhead ∧ (s.endTransaction).grant = s.grant ∧
    (s.endTransaction).passOver = s.passOver ∧ (s.endTransaction).spareMap = s.spareMap ∧
    (s.endTransaction).migration = s.migration ∧ (s.endTransaction).records = s.records ∧
    (s.endTransaction).fill = s.fill ∧ (s.endTransaction).scrub = s.scrub ∧ (s.endTransaction).faults = s.faults ∧
    (s.endTransaction).settings = s.settings ∧ (s.endTransaction).link = s.link ∧
    (s.endTransaction).executing = s.executing ∧ (s.endTransaction).tickLength = s.tickLength ∧
    (s.endTransaction).resetInProgress = s.resetInProgress ∧ (s.endTransaction).resetDue = s.resetDue ∧
    (s.endTransaction).upSent = s.upSent ∧ (s.endTransaction).svcSent = s.svcSent ∧
    (s.endTransaction).pending = s.pending :=
  ⟨rfl, rfl, rfl, rfl, rfl, rfl, rfl, rfl, rfl, rfl, rfl, rfl, rfl, rfl, rfl, rfl, rfl, rfl, rfl, rfl, rfl, rfl, rfl, rfl⟩

/-- The queue of commands alone. -/
@[simp] theorem State.withPending_frame (s : State) (cs : List Instr) :
    (s.withPending cs).rstN = s.rstN ∧ (s.withPending cs).straps = s.straps ∧ (s.withPending cs).mem = s.mem ∧
    (s.withPending cs).port = s.port ∧ (s.withPending cs).txn = s.txn ∧ (s.withPending cs).held = s.held ∧
    (s.withPending cs).lock = s.lock ∧ (s.withPending cs).queue = s.queue ∧
    (s.withPending cs).readAhead = s.readAhead ∧ (s.withPending cs).grant = s.grant ∧
    (s.withPending cs).passOver = s.passOver ∧ (s.withPending cs).spareMap = s.spareMap ∧
    (s.withPending cs).migration = s.migration ∧ (s.withPending cs).records = s.records ∧
    (s.withPending cs).fill = s.fill ∧ (s.withPending cs).scrub = s.scrub ∧ (s.withPending cs).faults = s.faults ∧
    (s.withPending cs).settings = s.settings ∧ (s.withPending cs).link = s.link ∧
    (s.withPending cs).executing = s.executing ∧ (s.withPending cs).tickLength = s.tickLength ∧
    (s.withPending cs).resetInProgress = s.resetInProgress ∧ (s.withPending cs).resetDue = s.resetDue ∧
    (s.withPending cs).upSent = s.upSent ∧ (s.withPending cs).svcSent = s.svcSent :=
  ⟨rfl, rfl, rfl, rfl, rfl, rfl, rfl, rfl, rfl, rfl, rfl, rfl, rfl, rfl, rfl, rfl, rfl, rfl, rfl, rfl, rfl, rfl, rfl, rfl, rfl⟩

/-- A pause reaches the scrub alone. -/
@[simp] theorem State.pauseIfHalted_frame (s : State) :
    (s.pauseIfHalted).rstN = s.rstN ∧ (s.pauseIfHalted).straps = s.straps ∧ (s.pauseIfHalted).mem = s.mem ∧
    (s.pauseIfHalted).port = s.port ∧ (s.pauseIfHalted).txn = s.txn ∧ (s.pauseIfHalted).held = s.held ∧
    (s.pauseIfHalted).lock = s.lock ∧ (s.pauseIfHalted).queue = s.queue ∧ (s.pauseIfHalted).readAhead = s.readAhead ∧
    (s.pauseIfHalted).grant = s.grant ∧ (s.pauseIfHalted).passOver = s.passOver ∧
    (s.pauseIfHalted).spareMap = s.spareMap ∧ (s.pauseIfHalted).migration = s.migration ∧
    (s.pauseIfHalted).records = s.records ∧ (s.pauseIfHalted).fill = s.fill ∧ (s.pauseIfHalted).faults = s.faults ∧
    (s.pauseIfHalted).settings = s.settings ∧ (s.pauseIfHalted).link = s.link ∧
    (s.pauseIfHalted).executing = s.executing ∧ (s.pauseIfHalted).tickLength = s.tickLength ∧
    (s.pauseIfHalted).resetInProgress = s.resetInProgress ∧ (s.pauseIfHalted).resetDue = s.resetDue ∧
    (s.pauseIfHalted).upSent = s.upSent ∧ (s.pauseIfHalted).svcSent = s.svcSent ∧
    (s.pauseIfHalted).pending = s.pending :=
  ⟨rfl, rfl, rfl, rfl, rfl, rfl, rfl, rfl, rfl, rfl, rfl, rfl, rfl, rfl, rfl, rfl, rfl, rfl, rfl, rfl, rfl, rfl, rfl, rfl, rfl⟩

/-- An occurrence reaches the Fault Unit and the scrub. -/
@[simp] theorem State.occur_frame (s : State) (src : FaultSource) :
    (s.occur src).rstN = s.rstN ∧ (s.occur src).straps = s.straps ∧ (s.occur src).mem = s.mem ∧
    (s.occur src).port = s.port ∧ (s.occur src).txn = s.txn ∧ (s.occur src).held = s.held ∧
    (s.occur src).lock = s.lock ∧ (s.occur src).queue = s.queue ∧ (s.occur src).readAhead = s.readAhead ∧
    (s.occur src).grant = s.grant ∧ (s.occur src).passOver = s.passOver ∧ (s.occur src).spareMap = s.spareMap ∧
    (s.occur src).migration = s.migration ∧ (s.occur src).records = s.records ∧ (s.occur src).fill = s.fill ∧
    (s.occur src).settings = s.settings ∧ (s.occur src).link = s.link ∧ (s.occur src).executing = s.executing ∧
    (s.occur src).tickLength = s.tickLength ∧ (s.occur src).resetInProgress = s.resetInProgress ∧
    (s.occur src).resetDue = s.resetDue ∧ (s.occur src).upSent = s.upSent ∧ (s.occur src).svcSent = s.svcSent ∧
    (s.occur src).pending = s.pending :=
  ⟨rfl, rfl, rfl, rfl, rfl, rfl, rfl, rfl, rfl, rfl, rfl, rfl, rfl, rfl, rfl, rfl, rfl, rfl, rfl, rfl, rfl, rfl, rfl, rfl⟩

/-- As `occur_frame`. -/
@[simp] theorem State.occurOpt_frame (s : State) (src : Option FaultSource) :
    (s.occurOpt src).rstN = s.rstN ∧ (s.occurOpt src).straps = s.straps ∧ (s.occurOpt src).mem = s.mem ∧
    (s.occurOpt src).port = s.port ∧ (s.occurOpt src).txn = s.txn ∧ (s.occurOpt src).held = s.held ∧
    (s.occurOpt src).lock = s.lock ∧ (s.occurOpt src).queue = s.queue ∧ (s.occurOpt src).readAhead = s.readAhead ∧
    (s.occurOpt src).grant = s.grant ∧ (s.occurOpt src).passOver = s.passOver ∧
    (s.occurOpt src).spareMap = s.spareMap ∧ (s.occurOpt src).migration = s.migration ∧
    (s.occurOpt src).records = s.records ∧ (s.occurOpt src).fill = s.fill ∧ (s.occurOpt src).settings = s.settings ∧
    (s.occurOpt src).link = s.link ∧ (s.occurOpt src).executing = s.executing ∧
    (s.occurOpt src).tickLength = s.tickLength ∧ (s.occurOpt src).resetInProgress = s.resetInProgress ∧
    (s.occurOpt src).resetDue = s.resetDue ∧ (s.occurOpt src).upSent = s.upSent ∧
    (s.occurOpt src).svcSent = s.svcSent ∧ (s.occurOpt src).pending = s.pending := by
  cases src <;> simp [State.occurOpt]

/-- The examination for promotion reaches the table, and the Fault Unit where no slot is FREE. -/
@[simp] theorem State.examine_frame (s : State) (a : Nat) :
    (s.examine a).rstN = s.rstN ∧ (s.examine a).straps = s.straps ∧ (s.examine a).mem = s.mem ∧
    (s.examine a).port = s.port ∧ (s.examine a).txn = s.txn ∧ (s.examine a).held = s.held ∧
    (s.examine a).lock = s.lock ∧ (s.examine a).queue = s.queue ∧ (s.examine a).readAhead = s.readAhead ∧
    (s.examine a).grant = s.grant ∧ (s.examine a).passOver = s.passOver ∧ (s.examine a).spareMap = s.spareMap ∧
    (s.examine a).migration = s.migration ∧ (s.examine a).fill = s.fill ∧ (s.examine a).settings = s.settings ∧
    (s.examine a).link = s.link ∧ (s.examine a).executing = s.executing ∧ (s.examine a).tickLength = s.tickLength ∧
    (s.examine a).resetInProgress = s.resetInProgress ∧ (s.examine a).resetDue = s.resetDue ∧
    (s.examine a).upSent = s.upSent ∧ (s.examine a).svcSent = s.svcSent ∧ (s.examine a).pending = s.pending := by
  unfold State.examine
  split
  · simp
  · split
    · split <;> simp
    · simp

/-- An arrival reaches the table and the Fault Unit. -/
@[simp] theorem State.arrive_frame (s : State) (a : Arrival) :
    (s.arrive a).rstN = s.rstN ∧ (s.arrive a).straps = s.straps ∧ (s.arrive a).mem = s.mem ∧
    (s.arrive a).port = s.port ∧ (s.arrive a).txn = s.txn ∧ (s.arrive a).held = s.held ∧ (s.arrive a).lock = s.lock ∧
    (s.arrive a).queue = s.queue ∧ (s.arrive a).readAhead = s.readAhead ∧ (s.arrive a).grant = s.grant ∧
    (s.arrive a).passOver = s.passOver ∧ (s.arrive a).spareMap = s.spareMap ∧ (s.arrive a).migration = s.migration ∧
    (s.arrive a).fill = s.fill ∧ (s.arrive a).settings = s.settings ∧ (s.arrive a).link = s.link ∧
    (s.arrive a).executing = s.executing ∧ (s.arrive a).tickLength = s.tickLength ∧
    (s.arrive a).resetInProgress = s.resetInProgress ∧ (s.arrive a).resetDue = s.resetDue ∧
    (s.arrive a).upSent = s.upSent ∧ (s.arrive a).svcSent = s.svcSent ∧ (s.arrive a).pending = s.pending := by
  unfold State.arrive
  split <;> simp

/-- A delivery report reaches the table and the Fault Unit. -/
@[simp] theorem State.deliveryReport_frame (s : State) (a : Nat) (kind : Detected) (y : Option Syndrome) (loc : Location)
    (r : Repair) :
    (s.deliveryReport a kind y loc r).rstN = s.rstN ∧ (s.deliveryReport a kind y loc r).straps = s.straps ∧
    (s.deliveryReport a kind y loc r).mem = s.mem ∧ (s.deliveryReport a kind y loc r).port = s.port ∧
    (s.deliveryReport a kind y loc r).txn = s.txn ∧ (s.deliveryReport a kind y loc r).held = s.held ∧
    (s.deliveryReport a kind y loc r).lock = s.lock ∧ (s.deliveryReport a kind y loc r).queue = s.queue ∧
    (s.deliveryReport a kind y loc r).readAhead = s.readAhead ∧ (s.deliveryReport a kind y loc r).grant = s.grant ∧
    (s.deliveryReport a kind y loc r).passOver = s.passOver ∧
    (s.deliveryReport a kind y loc r).spareMap = s.spareMap ∧
    (s.deliveryReport a kind y loc r).migration = s.migration ∧ (s.deliveryReport a kind y loc r).fill = s.fill ∧
    (s.deliveryReport a kind y loc r).settings = s.settings ∧ (s.deliveryReport a kind y loc r).link = s.link ∧
    (s.deliveryReport a kind y loc r).executing = s.executing ∧
    (s.deliveryReport a kind y loc r).tickLength = s.tickLength ∧
    (s.deliveryReport a kind y loc r).resetInProgress = s.resetInProgress ∧
    (s.deliveryReport a kind y loc r).resetDue = s.resetDue ∧ (s.deliveryReport a kind y loc r).upSent = s.upSent ∧
    (s.deliveryReport a kind y loc r).svcSent = s.svcSent ∧ (s.deliveryReport a kind y loc r).pending = s.pending := by
  unfold State.deliveryReport
  split <;> simp

/-- An offer reaches the queue alone. -/
@[simp] theorem State.offer_frame (s : State) (k : EntryKind) (a : Nat) (d : Word) :
    (s.offer k a d).rstN = s.rstN ∧ (s.offer k a d).straps = s.straps ∧ (s.offer k a d).mem = s.mem ∧
    (s.offer k a d).port = s.port ∧ (s.offer k a d).txn = s.txn ∧ (s.offer k a d).held = s.held ∧
    (s.offer k a d).lock = s.lock ∧ (s.offer k a d).readAhead = s.readAhead ∧ (s.offer k a d).grant = s.grant ∧
    (s.offer k a d).passOver = s.passOver ∧ (s.offer k a d).spareMap = s.spareMap ∧
    (s.offer k a d).migration = s.migration ∧ (s.offer k a d).records = s.records ∧ (s.offer k a d).fill = s.fill ∧
    (s.offer k a d).scrub = s.scrub ∧ (s.offer k a d).faults = s.faults ∧ (s.offer k a d).settings = s.settings ∧
    (s.offer k a d).link = s.link ∧ (s.offer k a d).executing = s.executing ∧
    (s.offer k a d).tickLength = s.tickLength ∧ (s.offer k a d).resetInProgress = s.resetInProgress ∧
    (s.offer k a d).resetDue = s.resetDue ∧ (s.offer k a d).upSent = s.upSent ∧ (s.offer k a d).svcSent = s.svcSent ∧
    (s.offer k a d).pending = s.pending := by
  unfold State.offer
  split <;> simp

/-- The end of an array operation frees the array. -/
@[simp] theorem State.opened_frame (s : State) (loc : Nat) (u : Upset) :
    (s.opened loc u).rstN = s.rstN ∧ (s.opened loc u).straps = s.straps ∧ (s.opened loc u).port = s.port ∧
    (s.opened loc u).txn = s.txn ∧ (s.opened loc u).held = s.held ∧ (s.opened loc u).lock = s.lock ∧
    (s.opened loc u).queue = s.queue ∧ (s.opened loc u).readAhead = s.readAhead ∧
    (s.opened loc u).passOver = s.passOver ∧ (s.opened loc u).spareMap = s.spareMap ∧
    (s.opened loc u).migration = s.migration ∧ (s.opened loc u).records = s.records ∧
    (s.opened loc u).fill = s.fill ∧ (s.opened loc u).scrub = s.scrub ∧ (s.opened loc u).faults = s.faults ∧
    (s.opened loc u).settings = s.settings ∧ (s.opened loc u).link = s.link ∧
    (s.opened loc u).executing = s.executing ∧ (s.opened loc u).tickLength = s.tickLength ∧
    (s.opened loc u).resetInProgress = s.resetInProgress ∧ (s.opened loc u).resetDue = s.resetDue ∧
    (s.opened loc u).upSent = s.upSent ∧ (s.opened loc u).svcSent = s.svcSent ∧
    (s.opened loc u).pending = s.pending :=
  ⟨rfl, rfl, rfl, rfl, rfl, rfl, rfl, rfl, rfl, rfl, rfl, rfl, rfl, rfl, rfl, rfl, rfl, rfl, rfl, rfl, rfl, rfl, rfl, rfl⟩

/-- A store reaches the array alone. -/
@[simp] theorem State.store_frame (s : State) (loc : Nat) (w : StoredWord) :
    (s.store loc w).rstN = s.rstN ∧ (s.store loc w).straps = s.straps ∧ (s.store loc w).port = s.port ∧
    (s.store loc w).txn = s.txn ∧ (s.store loc w).held = s.held ∧ (s.store loc w).lock = s.lock ∧
    (s.store loc w).queue = s.queue ∧ (s.store loc w).readAhead = s.readAhead ∧ (s.store loc w).grant = s.grant ∧
    (s.store loc w).passOver = s.passOver ∧ (s.store loc w).spareMap = s.spareMap ∧
    (s.store loc w).migration = s.migration ∧ (s.store loc w).records = s.records ∧ (s.store loc w).fill = s.fill ∧
    (s.store loc w).scrub = s.scrub ∧ (s.store loc w).faults = s.faults ∧ (s.store loc w).settings = s.settings ∧
    (s.store loc w).link = s.link ∧ (s.store loc w).executing = s.executing ∧
    (s.store loc w).tickLength = s.tickLength ∧ (s.store loc w).resetInProgress = s.resetInProgress ∧
    (s.store loc w).resetDue = s.resetDue ∧ (s.store loc w).upSent = s.upSent ∧ (s.store loc w).svcSent = s.svcSent ∧
    (s.store loc w).pending = s.pending :=
  ⟨rfl, rfl, rfl, rfl, rfl, rfl, rfl, rfl, rfl, rfl, rfl, rfl, rfl, rfl, rfl, rfl, rfl, rfl, rfl, rfl, rfl, rfl, rfl, rfl, rfl⟩

/-- A dual store reaches the array alone. -/
@[simp] theorem State.storeDual_frame (s : State) (d : Option Nat) (w : StoredWord) :
    (s.storeDual d w).rstN = s.rstN ∧ (s.storeDual d w).straps = s.straps ∧ (s.storeDual d w).port = s.port ∧
    (s.storeDual d w).txn = s.txn ∧ (s.storeDual d w).held = s.held ∧ (s.storeDual d w).lock = s.lock ∧
    (s.storeDual d w).queue = s.queue ∧ (s.storeDual d w).readAhead = s.readAhead ∧
    (s.storeDual d w).grant = s.grant ∧ (s.storeDual d w).passOver = s.passOver ∧
    (s.storeDual d w).spareMap = s.spareMap ∧ (s.storeDual d w).migration = s.migration ∧
    (s.storeDual d w).records = s.records ∧ (s.storeDual d w).fill = s.fill ∧ (s.storeDual d w).scrub = s.scrub ∧
    (s.storeDual d w).faults = s.faults ∧ (s.storeDual d w).settings = s.settings ∧ (s.storeDual d w).link = s.link ∧
    (s.storeDual d w).executing = s.executing ∧ (s.storeDual d w).tickLength = s.tickLength ∧
    (s.storeDual d w).resetInProgress = s.resetInProgress ∧ (s.storeDual d w).resetDue = s.resetDue ∧
    (s.storeDual d w).upSent = s.upSent ∧ (s.storeDual d w).svcSent = s.svcSent ∧
    (s.storeDual d w).pending = s.pending :=
  ⟨rfl, rfl, rfl, rfl, rfl, rfl, rfl, rfl, rfl, rfl, rfl, rfl, rfl, rfl, rfl, rfl, rfl, rfl, rfl, rfl, rfl, rfl, rfl, rfl, rfl⟩

/-- A word slot reaches the read-ahead buffer alone. -/
@[simp] theorem State.fillSlot_frame (s : State) (i : Fin 2) (x : RaSlot) :
    (s.fillSlot i x).rstN = s.rstN ∧ (s.fillSlot i x).straps = s.straps ∧ (s.fillSlot i x).mem = s.mem ∧
    (s.fillSlot i x).port = s.port ∧ (s.fillSlot i x).txn = s.txn ∧ (s.fillSlot i x).held = s.held ∧
    (s.fillSlot i x).lock = s.lock ∧ (s.fillSlot i x).queue = s.queue ∧ (s.fillSlot i x).grant = s.grant ∧
    (s.fillSlot i x).passOver = s.passOver ∧ (s.fillSlot i x).spareMap = s.spareMap ∧
    (s.fillSlot i x).migration = s.migration ∧ (s.fillSlot i x).records = s.records ∧
    (s.fillSlot i x).fill = s.fill ∧ (s.fillSlot i x).scrub = s.scrub ∧ (s.fillSlot i x).faults = s.faults ∧
    (s.fillSlot i x).settings = s.settings ∧ (s.fillSlot i x).link = s.link ∧
    (s.fillSlot i x).executing = s.executing ∧ (s.fillSlot i x).tickLength = s.tickLength ∧
    (s.fillSlot i x).resetInProgress = s.resetInProgress ∧ (s.fillSlot i x).resetDue = s.resetDue ∧
    (s.fillSlot i x).upSent = s.upSent ∧ (s.fillSlot i x).svcSent = s.svcSent ∧
    (s.fillSlot i x).pending = s.pending :=
  ⟨rfl, rfl, rfl, rfl, rfl, rfl, rfl, rfl, rfl, rfl, rfl, rfl, rfl, rfl, rfl, rfl, rfl, rfl, rfl, rfl, rfl, rfl, rfl, rfl, rfl⟩

/-- A wait is recorded at the port. -/
@[simp] theorem State.waitBeat_frame (s : State) (req : Request) (marks : Option (List Bool)) (i : Nat) (w : BeatWait) :
    (s.waitBeat req marks i w).rstN = s.rstN ∧ (s.waitBeat req marks i w).straps = s.straps ∧
    (s.waitBeat req marks i w).mem = s.mem ∧ (s.waitBeat req marks i w).held = s.held ∧
    (s.waitBeat req marks i w).lock = s.lock ∧ (s.waitBeat req marks i w).queue = s.queue ∧
    (s.waitBeat req marks i w).readAhead = s.readAhead ∧ (s.waitBeat req marks i w).grant = s.grant ∧
    (s.waitBeat req marks i w).passOver = s.passOver ∧ (s.waitBeat req marks i w).spareMap = s.spareMap ∧
    (s.waitBeat req marks i w).migration = s.migration ∧ (s.waitBeat req marks i w).records = s.records ∧
    (s.waitBeat req marks i w).fill = s.fill ∧ (s.waitBeat req marks i w).scrub = s.scrub ∧
    (s.waitBeat req marks i w).faults = s.faults ∧ (s.waitBeat req marks i w).settings = s.settings ∧
    (s.waitBeat req marks i w).link = s.link ∧ (s.waitBeat req marks i w).executing = s.executing ∧
    (s.waitBeat req marks i w).tickLength = s.tickLength ∧
    (s.waitBeat req marks i w).resetInProgress = s.resetInProgress ∧
    (s.waitBeat req marks i w).resetDue = s.resetDue ∧ (s.waitBeat req marks i w).upSent = s.upSent ∧
    (s.waitBeat req marks i w).svcSent = s.svcSent ∧ (s.waitBeat req marks i w).pending = s.pending :=
  ⟨rfl, rfl, rfl, rfl, rfl, rfl, rfl, rfl, rfl, rfl, rfl, rfl, rfl, rfl, rfl, rfl, rfl, rfl, rfl, rfl, rfl, rfl, rfl, rfl⟩

/-- A refusal sends an ERROR, raises its fault and may end a BROKEN lock (R28). -/
@[simp] theorem State.refuse_frame (s : State) (req : Request) (f : Option FaultSource) (e : Bool) :
    (s.refuse req f e).rstN = s.rstN ∧ (s.refuse req f e).straps = s.straps ∧ (s.refuse req f e).mem = s.mem ∧
    (s.refuse req f e).port = s.port ∧ (s.refuse req f e).txn = s.txn ∧ (s.refuse req f e).held = s.held ∧
    (s.refuse req f e).queue = s.queue ∧ (s.refuse req f e).readAhead = s.readAhead ∧
    (s.refuse req f e).grant = s.grant ∧ (s.refuse req f e).passOver = s.passOver ∧
    (s.refuse req f e).spareMap = s.spareMap ∧ (s.refuse req f e).migration = s.migration ∧
    (s.refuse req f e).records = s.records ∧ (s.refuse req f e).fill = s.fill ∧
    (s.refuse req f e).settings = s.settings ∧ (s.refuse req f e).link = s.link ∧
    (s.refuse req f e).executing = s.executing ∧ (s.refuse req f e).tickLength = s.tickLength ∧
    (s.refuse req f e).resetInProgress = s.resetInProgress ∧ (s.refuse req f e).resetDue = s.resetDue ∧
    (s.refuse req f e).svcSent = s.svcSent ∧ (s.refuse req f e).pending = s.pending := by
  simp [State.refuse]

/-- The end of a response reaches the link timing and the reset that is due. -/
@[simp] theorem State.acknowledged_frame (s : State) (b : Bool) :
    (s.acknowledged b).rstN = s.rstN ∧ (s.acknowledged b).straps = s.straps ∧ (s.acknowledged b).mem = s.mem ∧
    (s.acknowledged b).port = s.port ∧ (s.acknowledged b).txn = s.txn ∧ (s.acknowledged b).held = s.held ∧
    (s.acknowledged b).lock = s.lock ∧ (s.acknowledged b).queue = s.queue ∧
    (s.acknowledged b).readAhead = s.readAhead ∧ (s.acknowledged b).grant = s.grant ∧
    (s.acknowledged b).passOver = s.passOver ∧ (s.acknowledged b).spareMap = s.spareMap ∧
    (s.acknowledged b).migration = s.migration ∧ (s.acknowledged b).records = s.records ∧
    (s.acknowledged b).fill = s.fill ∧ (s.acknowledged b).scrub = s.scrub ∧ (s.acknowledged b).faults = s.faults ∧
    (s.acknowledged b).settings = s.settings ∧ (s.acknowledged b).executing = s.executing ∧
    (s.acknowledged b).tickLength = s.tickLength ∧ (s.acknowledged b).resetInProgress = s.resetInProgress ∧
    (s.acknowledged b).upSent = s.upSent ∧ (s.acknowledged b).svcSent = s.svcSent ∧
    (s.acknowledged b).pending = s.pending :=
  ⟨rfl, rfl, rfl, rfl, rfl, rfl, rfl, rfl, rfl, rfl, rfl, rfl, rfl, rfl, rfl, rfl, rfl, rfl, rfl, rfl, rfl, rfl, rfl, rfl⟩

/-- The checks of a frame reach the link and the Command Unit. -/
@[simp] theorem State.checkFrame_frame (s : State) :
    (s.checkFrame).rstN = s.rstN ∧ (s.checkFrame).straps = s.straps ∧ (s.checkFrame).mem = s.mem ∧
    (s.checkFrame).port = s.port ∧ (s.checkFrame).txn = s.txn ∧ (s.checkFrame).held = s.held ∧
    (s.checkFrame).lock = s.lock ∧ (s.checkFrame).queue = s.queue ∧ (s.checkFrame).readAhead = s.readAhead ∧
    (s.checkFrame).grant = s.grant ∧ (s.checkFrame).passOver = s.passOver ∧ (s.checkFrame).spareMap = s.spareMap ∧
    (s.checkFrame).migration = s.migration ∧ (s.checkFrame).records = s.records ∧ (s.checkFrame).fill = s.fill ∧
    (s.checkFrame).scrub = s.scrub ∧ (s.checkFrame).faults = s.faults ∧ (s.checkFrame).settings = s.settings ∧
    (s.checkFrame).tickLength = s.tickLength ∧ (s.checkFrame).resetInProgress = s.resetInProgress ∧
    (s.checkFrame).resetDue = s.resetDue ∧ (s.checkFrame).upSent = s.upSent ∧ (s.checkFrame).svcSent = s.svcSent ∧
    (s.checkFrame).pending = s.pending := by
  unfold State.checkFrame
  split
  · split <;> simp
  · split <;> simp

/-- As `checkFrame_frame`. -/
@[simp] theorem State.resumeFrame_frame (s : State) :
    (s.resumeFrame).rstN = s.rstN ∧ (s.resumeFrame).straps = s.straps ∧ (s.resumeFrame).mem = s.mem ∧
    (s.resumeFrame).port = s.port ∧ (s.resumeFrame).txn = s.txn ∧ (s.resumeFrame).held = s.held ∧
    (s.resumeFrame).lock = s.lock ∧ (s.resumeFrame).queue = s.queue ∧ (s.resumeFrame).readAhead = s.readAhead ∧
    (s.resumeFrame).grant = s.grant ∧ (s.resumeFrame).passOver = s.passOver ∧ (s.resumeFrame).spareMap = s.spareMap ∧
    (s.resumeFrame).migration = s.migration ∧ (s.resumeFrame).records = s.records ∧ (s.resumeFrame).fill = s.fill ∧
    (s.resumeFrame).scrub = s.scrub ∧ (s.resumeFrame).faults = s.faults ∧ (s.resumeFrame).settings = s.settings ∧
    (s.resumeFrame).tickLength = s.tickLength ∧ (s.resumeFrame).resetInProgress = s.resetInProgress ∧
    (s.resumeFrame).resetDue = s.resetDue ∧ (s.resumeFrame).upSent = s.upSent ∧ (s.resumeFrame).svcSent = s.svcSent ∧
    (s.resumeFrame).pending = s.pending := by
  unfold State.resumeFrame
  split <;> simp

/-- The end of a command reaches the link and the Command Unit. -/
@[simp] theorem State.finish_frame (s : State) (st : Status) (p : List Byte) :
    (s.finish st p).rstN = s.rstN ∧ (s.finish st p).straps = s.straps ∧ (s.finish st p).mem = s.mem ∧
    (s.finish st p).port = s.port ∧ (s.finish st p).txn = s.txn ∧ (s.finish st p).held = s.held ∧
    (s.finish st p).lock = s.lock ∧ (s.finish st p).queue = s.queue ∧ (s.finish st p).readAhead = s.readAhead ∧
    (s.finish st p).grant = s.grant ∧ (s.finish st p).passOver = s.passOver ∧ (s.finish st p).spareMap = s.spareMap ∧
    (s.finish st p).migration = s.migration ∧ (s.finish st p).records = s.records ∧ (s.finish st p).fill = s.fill ∧
    (s.finish st p).scrub = s.scrub ∧ (s.finish st p).faults = s.faults ∧ (s.finish st p).settings = s.settings ∧
    (s.finish st p).tickLength = s.tickLength ∧ (s.finish st p).resetInProgress = s.resetInProgress ∧
    (s.finish st p).upSent = s.upSent ∧ (s.finish st p).svcSent = s.svcSent ∧ (s.finish st p).pending = s.pending := by
  unfold State.finish
  split
  · simp
  · split
    · simp
    · split <;> simp

/-- The command waits. -/
@[simp] theorem State.waitForGrant_frame (s : State) :
    (s.waitForGrant).rstN = s.rstN ∧ (s.waitForGrant).straps = s.straps ∧ (s.waitForGrant).mem = s.mem ∧
    (s.waitForGrant).port = s.port ∧ (s.waitForGrant).txn = s.txn ∧ (s.waitForGrant).held = s.held ∧
    (s.waitForGrant).lock = s.lock ∧ (s.waitForGrant).queue = s.queue ∧ (s.waitForGrant).readAhead = s.readAhead ∧
    (s.waitForGrant).grant = s.grant ∧ (s.waitForGrant).passOver = s.passOver ∧
    (s.waitForGrant).spareMap = s.spareMap ∧ (s.waitForGrant).migration = s.migration ∧
    (s.waitForGrant).records = s.records ∧ (s.waitForGrant).fill = s.fill ∧ (s.waitForGrant).scrub = s.scrub ∧
    (s.waitForGrant).faults = s.faults ∧ (s.waitForGrant).settings = s.settings ∧ (s.waitForGrant).link = s.link ∧
    (s.waitForGrant).tickLength = s.tickLength ∧ (s.waitForGrant).resetInProgress = s.resetInProgress ∧
    (s.waitForGrant).resetDue = s.resetDue ∧ (s.waitForGrant).upSent = s.upSent ∧
    (s.waitForGrant).svcSent = s.svcSent ∧ (s.waitForGrant).pending = s.pending :=
  ⟨rfl, rfl, rfl, rfl, rfl, rfl, rfl, rfl, rfl, rfl, rfl, rfl, rfl, rfl, rfl, rfl, rfl, rfl, rfl, rfl, rfl, rfl, rfl, rfl, rfl⟩

/-- What goes out on SVC_TX. -/
@[simp] theorem State.transmitted_frame (s : State) (cs : List Byte) :
    (s.transmitted cs).rstN = s.rstN ∧ (s.transmitted cs).straps = s.straps ∧ (s.transmitted cs).mem = s.mem ∧
    (s.transmitted cs).port = s.port ∧ (s.transmitted cs).txn = s.txn ∧ (s.transmitted cs).held = s.held ∧
    (s.transmitted cs).lock = s.lock ∧ (s.transmitted cs).queue = s.queue ∧
    (s.transmitted cs).readAhead = s.readAhead ∧ (s.transmitted cs).grant = s.grant ∧
    (s.transmitted cs).passOver = s.passOver ∧ (s.transmitted cs).spareMap = s.spareMap ∧
    (s.transmitted cs).migration = s.migration ∧ (s.transmitted cs).records = s.records ∧
    (s.transmitted cs).fill = s.fill ∧ (s.transmitted cs).scrub = s.scrub ∧ (s.transmitted cs).faults = s.faults ∧
    (s.transmitted cs).settings = s.settings ∧ (s.transmitted cs).executing = s.executing ∧
    (s.transmitted cs).tickLength = s.tickLength ∧ (s.transmitted cs).resetInProgress = s.resetInProgress ∧
    (s.transmitted cs).resetDue = s.resetDue ∧ (s.transmitted cs).upSent = s.upSent ∧
    (s.transmitted cs).pending = s.pending :=
  ⟨rfl, rfl, rfl, rfl, rfl, rfl, rfl, rfl, rfl, rfl, rfl, rfl, rfl, rfl, rfl, rfl, rfl, rfl, rfl, rfl, rfl, rfl, rfl, rfl⟩

/-- The held word alone. -/
@[simp] theorem State.hold_frame (s : State) (w : StoredWord) :
    (s.hold w).rstN = s.rstN ∧ (s.hold w).straps = s.straps ∧ (s.hold w).mem = s.mem ∧ (s.hold w).port = s.port ∧
    (s.hold w).txn = s.txn ∧ (s.hold w).held = s.held ∧ (s.hold w).lock = s.lock ∧ (s.hold w).queue = s.queue ∧
    (s.hold w).readAhead = s.readAhead ∧ (s.hold w).grant = s.grant ∧ (s.hold w).passOver = s.passOver ∧
    (s.hold w).spareMap = s.spareMap ∧ (s.hold w).records = s.records ∧ (s.hold w).fill = s.fill ∧
    (s.hold w).scrub = s.scrub ∧ (s.hold w).faults = s.faults ∧ (s.hold w).settings = s.settings ∧
    (s.hold w).link = s.link ∧ (s.hold w).executing = s.executing ∧ (s.hold w).tickLength = s.tickLength ∧
    (s.hold w).resetInProgress = s.resetInProgress ∧ (s.hold w).resetDue = s.resetDue ∧
    (s.hold w).upSent = s.upSent ∧ (s.hold w).svcSent = s.svcSent ∧ (s.hold w).pending = s.pending :=
  ⟨rfl, rfl, rfl, rfl, rfl, rfl, rfl, rfl, rfl, rfl, rfl, rfl, rfl, rfl, rfl, rfl, rfl, rfl, rfl, rfl, rfl, rfl, rfl, rfl, rfl⟩

/-- The step due alone. -/
@[simp] theorem State.verifyDue_frame (s : State) :
    (s.verifyDue).rstN = s.rstN ∧ (s.verifyDue).straps = s.straps ∧ (s.verifyDue).mem = s.mem ∧
    (s.verifyDue).port = s.port ∧ (s.verifyDue).txn = s.txn ∧ (s.verifyDue).held = s.held ∧
    (s.verifyDue).lock = s.lock ∧ (s.verifyDue).queue = s.queue ∧ (s.verifyDue).readAhead = s.readAhead ∧
    (s.verifyDue).grant = s.grant ∧ (s.verifyDue).passOver = s.passOver ∧ (s.verifyDue).spareMap = s.spareMap ∧
    (s.verifyDue).records = s.records ∧ (s.verifyDue).fill = s.fill ∧ (s.verifyDue).scrub = s.scrub ∧
    (s.verifyDue).faults = s.faults ∧ (s.verifyDue).settings = s.settings ∧ (s.verifyDue).link = s.link ∧
    (s.verifyDue).executing = s.executing ∧ (s.verifyDue).tickLength = s.tickLength ∧
    (s.verifyDue).resetInProgress = s.resetInProgress ∧ (s.verifyDue).resetDue = s.resetDue ∧
    (s.verifyDue).upSent = s.upSent ∧ (s.verifyDue).svcSent = s.svcSent ∧ (s.verifyDue).pending = s.pending :=
  ⟨rfl, rfl, rfl, rfl, rfl, rfl, rfl, rfl, rfl, rfl, rfl, rfl, rfl, rfl, rfl, rfl, rfl, rfl, rfl, rfl, rfl, rfl, rfl, rfl, rfl⟩

/-- A start reaches the map, the engine and the records. -/
@[simp] theorem State.startMigration_frame (s : State) (line : Nat) (o : Origin) (n : Fin 8) :
    (s.startMigration line o n).rstN = s.rstN ∧ (s.startMigration line o n).straps = s.straps ∧
    (s.startMigration line o n).mem = s.mem ∧ (s.startMigration line o n).port = s.port ∧
    (s.startMigration line o n).txn = s.txn ∧ (s.startMigration line o n).held = s.held ∧
    (s.startMigration line o n).lock = s.lock ∧ (s.startMigration line o n).queue = s.queue ∧
    (s.startMigration line o n).readAhead = s.readAhead ∧ (s.startMigration line o n).grant = s.grant ∧
    (s.startMigration line o n).passOver = s.passOver ∧ (s.startMigration line o n).fill = s.fill ∧
    (s.startMigration line o n).scrub = s.scrub ∧ (s.startMigration line o n).faults = s.faults ∧
    (s.startMigration line o n).settings = s.settings ∧ (s.startMigration line o n).link = s.link ∧
    (s.startMigration line o n).executing = s.executing ∧ (s.startMigration line o n).tickLength = s.tickLength ∧
    (s.startMigration line o n).resetInProgress = s.resetInProgress ∧
    (s.startMigration line o n).resetDue = s.resetDue ∧ (s.startMigration line o n).upSent = s.upSent ∧
    (s.startMigration line o n).svcSent = s.svcSent ∧ (s.startMigration line o n).pending = s.pending :=
  ⟨rfl, rfl, rfl, rfl, rfl, rfl, rfl, rfl, rfl, rfl, rfl, rfl, rfl, rfl, rfl, rfl, rfl, rfl, rfl, rfl, rfl, rfl, rfl⟩

/-- The cursors alone. -/
@[simp] theorem State.advanceScrub_frame (s : State) :
    (s.advanceScrub).rstN = s.rstN ∧ (s.advanceScrub).straps = s.straps ∧ (s.advanceScrub).mem = s.mem ∧
    (s.advanceScrub).port = s.port ∧ (s.advanceScrub).txn = s.txn ∧ (s.advanceScrub).held = s.held ∧
    (s.advanceScrub).lock = s.lock ∧ (s.advanceScrub).queue = s.queue ∧ (s.advanceScrub).readAhead = s.readAhead ∧
    (s.advanceScrub).grant = s.grant ∧ (s.advanceScrub).passOver = s.passOver ∧
    (s.advanceScrub).spareMap = s.spareMap ∧ (s.advanceScrub).migration = s.migration ∧
    (s.advanceScrub).records = s.records ∧ (s.advanceScrub).fill = s.fill ∧ (s.advanceScrub).faults = s.faults ∧
    (s.advanceScrub).settings = s.settings ∧ (s.advanceScrub).link = s.link ∧
    (s.advanceScrub).executing = s.executing ∧ (s.advanceScrub).tickLength = s.tickLength ∧
    (s.advanceScrub).resetInProgress = s.resetInProgress ∧ (s.advanceScrub).resetDue = s.resetDue ∧
    (s.advanceScrub).upSent = s.upSent ∧ (s.advanceScrub).svcSent = s.svcSent ∧
    (s.advanceScrub).pending = s.pending :=
  ⟨rfl, rfl, rfl, rfl, rfl, rfl, rfl, rfl, rfl, rfl, rfl, rfl, rfl, rfl, rfl, rfl, rfl, rfl, rfl, rfl, rfl, rfl, rfl, rfl, rfl⟩

/-- What the insertion of a beat reaches (R43, R44, R46, R84). -/
@[simp] theorem State.insertBeat_frame (s : State) (l t : Bool) (a : Nat) (b : Beat) :
    (s.insertBeat l t a b).rstN = s.rstN ∧ (s.insertBeat l t a b).straps = s.straps ∧
    (s.insertBeat l t a b).mem = s.mem ∧ (s.insertBeat l t a b).port = s.port ∧ (s.insertBeat l t a b).txn = s.txn ∧
    (s.insertBeat l t a b).held = s.held ∧ (s.insertBeat l t a b).passOver = s.passOver ∧
    (s.insertBeat l t a b).spareMap = s.spareMap ∧ (s.insertBeat l t a b).migration = s.migration ∧
    (s.insertBeat l t a b).records = s.records ∧ (s.insertBeat l t a b).fill = s.fill ∧
    (s.insertBeat l t a b).settings = s.settings ∧ (s.insertBeat l t a b).link = s.link ∧
    (s.insertBeat l t a b).executing = s.executing ∧ (s.insertBeat l t a b).tickLength = s.tickLength ∧
    (s.insertBeat l t a b).resetInProgress = s.resetInProgress ∧ (s.insertBeat l t a b).resetDue = s.resetDue ∧
    (s.insertBeat l t a b).upSent = s.upSent ∧ (s.insertBeat l t a b).svcSent = s.svcSent ∧
    (s.insertBeat l t a b).pending = s.pending := by
  simp [State.insertBeat]

end Sys2Proof.Machine
end

