-- ==== Sys2Proof/Laws/Arbiter.lean ====
section
/-! SUPPORT. The end of an event: what the prefetch's zero words and the arbiter's grant can change (R64, R67, R73). -/

namespace Sys2Proof.Machine

/-- Filling words above the watermark changes the buffer alone. -/
theorem State.zeroFill_eq (n : Nat) (s : State) : ∃ ra, s.zeroFill n = { s with readAhead := ra } := by
  induction n generalizing s with
  | zero => exact ⟨s.readAhead, rfl⟩
  | succ n ih =>
    unfold State.zeroFill
    split
    · exact ⟨s.readAhead, rfl⟩
    · split
      · obtain ⟨ra, h⟩ := ih (s.fillSlot ‹_› (.good 0))
        exact ⟨ra, by rw [h]; rfl⟩
      · exact ⟨s.readAhead, rfl⟩

/-- Field by field, `zeroFill_eq`. -/
@[simp] theorem State.zeroFill_frame (s : State) (n : Nat) :
    (State.zeroFill n s).rstN = s.rstN ∧ (State.zeroFill n s).straps = s.straps ∧ (State.zeroFill n s).mem = s.mem ∧
    (State.zeroFill n s).port = s.port ∧ (State.zeroFill n s).txn = s.txn ∧ (State.zeroFill n s).held = s.held ∧
    (State.zeroFill n s).lock = s.lock ∧ (State.zeroFill n s).queue = s.queue ∧
    (State.zeroFill n s).grant = s.grant ∧ (State.zeroFill n s).passOver = s.passOver ∧
    (State.zeroFill n s).spareMap = s.spareMap ∧ (State.zeroFill n s).migration = s.migration ∧
    (State.zeroFill n s).records = s.records ∧ (State.zeroFill n s).fill = s.fill ∧
    (State.zeroFill n s).scrub = s.scrub ∧ (State.zeroFill n s).faults = s.faults ∧
    (State.zeroFill n s).settings = s.settings ∧ (State.zeroFill n s).link = s.link ∧
    (State.zeroFill n s).executing = s.executing ∧ (State.zeroFill n s).tickLength = s.tickLength ∧
    (State.zeroFill n s).resetInProgress = s.resetInProgress ∧ (State.zeroFill n s).resetDue = s.resetDue ∧
    (State.zeroFill n s).upSent = s.upSent ∧ (State.zeroFill n s).svcSent = s.svcSent ∧
    (State.zeroFill n s).pending = s.pending := by
  obtain ⟨ra, h⟩ := State.zeroFill_eq n s
  simp [h]

/-- Where no line is FILLING nothing is filled. -/
theorem State.zeroFill_idle (n : Nat) (s : State) (h : s.readAhead.served = none) : s.zeroFill n = s := by
  cases n <;> simp [State.zeroFill, State.prefetchWord, h]

/-- What a grant changes. -/
@[simp] theorem State.give_frame (s : State) (c : ReqClass) :
    (s.give c).rstN = s.rstN ∧ (s.give c).straps = s.straps ∧ (s.give c).mem = s.mem ∧ (s.give c).port = s.port ∧
    (s.give c).txn = s.txn ∧ (s.give c).held = s.held ∧ (s.give c).lock = s.lock ∧
    (s.give c).readAhead = s.readAhead ∧ (s.give c).spareMap = s.spareMap ∧ (s.give c).migration = s.migration ∧
    (s.give c).records = s.records ∧ (s.give c).fill = s.fill ∧ (s.give c).scrub = s.scrub ∧
    (s.give c).faults = s.faults ∧ (s.give c).settings = s.settings ∧ (s.give c).link = s.link ∧
    (s.give c).executing = s.executing ∧ (s.give c).tickLength = s.tickLength ∧
    (s.give c).resetInProgress = s.resetInProgress ∧ (s.give c).resetDue = s.resetDue ∧
    (s.give c).upSent = s.upSent ∧ (s.give c).svcSent = s.svcSent ∧ (s.give c).pending = s.pending :=
  ⟨rfl, rfl, rfl, rfl, rfl, rfl, rfl, rfl, rfl, rfl, rfl, rfl, rfl, rfl, rfl, rfl, rfl, rfl, rfl, rfl, rfl, rfl, rfl⟩

/-- The skip of a word reaches the pass-over counts and the scrub record. -/
@[simp] theorem State.skipWord_frame (s : State) :
    s.skipWord.rstN = s.rstN ∧ s.skipWord.straps = s.straps ∧ s.skipWord.mem = s.mem ∧ s.skipWord.port = s.port ∧
    s.skipWord.txn = s.txn ∧ s.skipWord.held = s.held ∧ s.skipWord.lock = s.lock ∧ s.skipWord.queue = s.queue ∧
    s.skipWord.readAhead = s.readAhead ∧ s.skipWord.grant = s.grant ∧ s.skipWord.spareMap = s.spareMap ∧
    s.skipWord.migration = s.migration ∧ s.skipWord.records = s.records ∧ s.skipWord.fill = s.fill ∧
    s.skipWord.faults = s.faults ∧ s.skipWord.settings = s.settings ∧ s.skipWord.link = s.link ∧
    s.skipWord.executing = s.executing ∧ s.skipWord.tickLength = s.tickLength ∧
    s.skipWord.resetInProgress = s.resetInProgress ∧ s.skipWord.resetDue = s.resetDue ∧
    s.skipWord.upSent = s.upSent ∧ s.skipWord.svcSent = s.svcSent ∧ s.skipWord.pending = s.pending :=
  ⟨rfl, rfl, rfl, rfl, rfl, rfl, rfl, rfl, rfl, rfl, rfl, rfl, rfl, rfl, rfl, rfl, rfl, rfl, rfl, rfl, rfl, rfl, rfl, rfl⟩

/-- A skip leaves the array as it was. -/
theorem State.skipWord_arrayFree (s : State) : s.skipWord.arrayFree = s.arrayFree := rfl

/-- A skip uses one of the words due, or ends the sweep. -/
theorem Scrub.wordsDue_advance (sc : Scrub) (st : Settings) (lines : Nat) (h : sc.sweeping = true) :
    (sc.advance st lines).wordsDue + 1 = sc.wordsDue ∨
      (sc.advance st lines).sweeping = false ∧ (sc.advance st lines).wordsDue = 0 ∧ 0 < sc.wordsDue := by
  unfold Scrub.sweeping at h
  split at h
  · rename_i mode left hr
    by_cases hw : sc.word < 7
    · left
      simp only [Scrub.advance, hr, hw, if_true, Scrub.wordsDue]
      omega
    · simp only [Scrub.advance, hr, hw, if_false, Scrub.lineDone]
      split
      · split
        · right
          refine ⟨rfl, rfl, ?_⟩
          simp only [Scrub.wordsDue, hr]
          omega
        · left
          simp only [Scrub.wordsDue, hr]
          omega
      · right
        cases mode <;> refine ⟨rfl, rfl, ?_⟩ <;> simp only [Scrub.wordsDue, hr] <;> omega
  · simp at h

/-- Which class wins stands. -/
theorem State.winner_stands (s : State) (c : ReqClass) (h : s.winner = some c) : s.stands c = true := by
  unfold State.winner at h
  split at h
  · rename_i d hd
    have := List.find?_some hd
    simp_all
  · have := List.find?_some h
    simpa using this

/-- Without words due for the scrub one grant is all there can be. -/
theorem State.arbitrateWithin_idle (s : State) (n : Nat) (h : s.scrub.sweeping = false) :
    s.arbitrateWithin (n + 1) = s.arbitrateWithin 1 := by
  unfold State.arbitrateWithin
  split
  · rfl
  · rename_i c hc
    have hne : c ≠ .scrub := by
      rintro rfl
      have := s.winner_stands _ hc
      simp [State.stands, h] at this
    simp [hne]

/-- The arbiter after a skipped word: it is asked again (R64, R141). -/
theorem State.arbitrate_skip (s : State) (hf : s.arrayFree = true) (hw : s.winner = some .scrub)
    (hk : s.scrubSkips = true) : s.arbitrate = s.skipWord.arbitrate := by
  have hs : s.scrub.sweeping = true := s.winner_stands _ hw
  have h1 : s.arbitrate = s.skipWord.arbitrateWithin s.scrub.wordsDue := by
    conv => lhs; unfold State.arbitrate State.arbitrateWithin
    simp [hw, hf, hk]
  rw [h1]
  have key := Scrub.wordsDue_advance { s.scrub with skipped := min (s.scrub.skipped + 1) 65535 } s.settings
    s.straps.visibleLines hs
  have e1 : s.skipWord.scrub = { s.scrub with skipped := min (s.scrub.skipped + 1) 65535 }.advance s.settings
    s.straps.visibleLines := rfl
  have e2 : ({ s.scrub with skipped := min (s.scrub.skipped + 1) 65535 } : Scrub).wordsDue = s.scrub.wordsDue := rfl
  rw [← e1, e2] at key
  rcases key with h | ⟨h, hz, hp⟩
  · rw [← h]
    rfl
  · obtain ⟨n, hn⟩ := Nat.exists_eq_succ_of_ne_zero (Nat.pos_iff_ne_zero.mp hp)
    rw [hn, State.arbitrateWithin_idle _ _ h]
    unfold State.arbitrate
    rw [hz]

/-- The arbiter where the next grant is not a skipped word's. -/
theorem State.arbitrate_grant (s : State) (h : ¬ (s.winner = some .scrub ∧ s.scrubSkips = true)) :
    s.arbitrate =
      match s.winner with
      | none => s
      | some c => if s.arrayFree then s.give c else s := by
  unfold State.arbitrate
  cases hc : s.winner with
  | none => simp [State.arbitrateWithin, hc]
  | some c =>
    have hk : (decide (c = ReqClass.scrub) && s.scrubSkips) = false := by
      cases hk : s.scrubSkips
      · simp
      · simp only [Bool.and_true, decide_eq_false_iff_not]
        rintro rfl
        exact h ⟨hc, hk⟩
    simp [State.arbitrateWithin, hc, hk]

/-- The arbiter skips a word and is asked again, gives one grant, or gives none: what holds of both and is kept by a
skip and by a grant holds after it. -/
theorem State.arbitrate_induction (P : State → State → Prop) (s : State) (refl : ∀ s, P s s)
    (give : ∀ s c, s.arrayFree = true → s.winner = some c → P s (s.give c))
    (skip : ∀ s t, s.arrayFree = true → s.winner = some .scrub → s.scrubSkips = true → P s.skipWord t → P s t) :
    P s s.arbitrate := by
  unfold State.arbitrate
  generalize s.scrub.wordsDue + 1 = n
  induction n generalizing s with
  | zero => exact refl s
  | succ n ih =>
    unfold State.arbitrateWithin
    split
    · exact refl s
    · rename_i c hc
      split
      · rename_i hf
        split
        · rename_i hk
          simp only [Bool.and_eq_true, decide_eq_true_eq] at hk
          obtain ⟨rfl, hk⟩ := hk
          exact skip s _ hf hc hk (ih _)
        · exact give s c hf hc
      · exact refl s

/-- What the arbiter changes. -/
@[simp] theorem State.arbitrate_frame (s : State) :
    (s.arbitrate).rstN = s.rstN ∧ (s.arbitrate).straps = s.straps ∧ (s.arbitrate).mem = s.mem ∧
    (s.arbitrate).port = s.port ∧ (s.arbitrate).txn = s.txn ∧ (s.arbitrate).held = s.held ∧
    (s.arbitrate).lock = s.lock ∧ (s.arbitrate).readAhead = s.readAhead ∧ (s.arbitrate).spareMap = s.spareMap ∧
    (s.arbitrate).migration = s.migration ∧ (s.arbitrate).records = s.records ∧ (s.arbitrate).fill = s.fill ∧
    (s.arbitrate).faults = s.faults ∧ (s.arbitrate).settings = s.settings ∧
    (s.arbitrate).link = s.link ∧ (s.arbitrate).executing = s.executing ∧ (s.arbitrate).tickLength = s.tickLength ∧
    (s.arbitrate).resetInProgress = s.resetInProgress ∧ (s.arbitrate).resetDue = s.resetDue ∧
    (s.arbitrate).upSent = s.upSent ∧ (s.arbitrate).svcSent = s.svcSent ∧ (s.arbitrate).pending = s.pending := by
  refine State.arbitrate_induction (fun s t => t.rstN = s.rstN ∧ t.straps = s.straps ∧ t.mem = s.mem ∧
    t.port = s.port ∧ t.txn = s.txn ∧ t.held = s.held ∧ t.lock = s.lock ∧ t.readAhead = s.readAhead ∧
    t.spareMap = s.spareMap ∧ t.migration = s.migration ∧ t.records = s.records ∧ t.fill = s.fill ∧
    t.faults = s.faults ∧ t.settings = s.settings ∧ t.link = s.link ∧ t.executing = s.executing ∧
    t.tickLength = s.tickLength ∧ t.resetInProgress = s.resetInProgress ∧ t.resetDue = s.resetDue ∧
    t.upSent = s.upSent ∧ t.svcSent = s.svcSent ∧ t.pending = s.pending) s ?_ ?_ ?_
  · intro s
    simp
  · intro s c _ _
    simp
  · intro s t _ _ _ h
    simpa using h

/-- The scrub that is not SWEEPING is not moved on. -/
theorem State.arbitrate_scrub (s : State) (h : s.scrub.sweeping = false) : s.arbitrate.scrub = s.scrub := by
  have hne : s.winner ≠ some .scrub := by
    intro hw
    have := s.winner_stands _ hw
    simp [State.stands, h] at this
  rw [State.arbitrate_grant s (fun k => hne k.1)]
  split
  · rfl
  · split <;> rfl

/-- What the end of an event changes. -/
@[simp] theorem State.settle_frame (s : State) :
    (s.settle).rstN = s.rstN ∧ (s.settle).straps = s.straps ∧ (s.settle).mem = s.mem ∧ (s.settle).port = s.port ∧
    (s.settle).txn = s.txn ∧ (s.settle).held = s.held ∧ (s.settle).lock = s.lock ∧ (s.settle).spareMap = s.spareMap ∧
    (s.settle).migration = s.migration ∧ (s.settle).records = s.records ∧ (s.settle).fill = s.fill ∧
    (s.settle).faults = s.faults ∧ (s.settle).settings = s.settings ∧
    (s.settle).link = s.link ∧ (s.settle).executing = s.executing ∧ (s.settle).tickLength = s.tickLength ∧
    (s.settle).resetInProgress = s.resetInProgress ∧ (s.settle).resetDue = s.resetDue ∧
    (s.settle).upSent = s.upSent ∧ (s.settle).svcSent = s.svcSent ∧ (s.settle).pending = s.pending := by
  simp [State.settle]

/-- A head that begins to drain changes its stage alone. -/
theorem unstaged_headDraining (q : List Entry) : unstaged (headDraining q) = unstaged q := by
  cases q <;> rfl

theorem State.give_unstaged (s : State) (c : ReqClass) : unstaged (s.give c).queue = unstaged s.queue := by
  simp only [State.give]
  split
  · exact unstaged_headDraining _
  · rfl

/-- While an operation is in progress no grant is given. -/
theorem State.arbitrate_busy (s : State) (h : s.arrayFree = false) : s.arbitrate = s := by
  unfold State.arbitrate State.arbitrateWithin
  split
  · rfl
  · simp [h]

theorem State.arrayFree_grant (s : State) (h : s.grant ≠ none) : s.arrayFree = false := by
  simp [State.arrayFree, h]

/-- What the end of an event can change: the grant in progress, the pass-over counts, the stage of the queue's head, the
words of a FILLING line above the watermark, and the scrub record where words are skipped (R64, R67, R73, R141). -/
theorem State.settle_eq (s : State) : ∃ q ra g p sc, s.settle =
    { s with queue := q, readAhead := ra, grant := g, passOver := p, scrub := sc } ∧
      unstaged q = unstaged s.queue := by
  obtain ⟨ra, hz⟩ := State.zeroFill_eq 16 s
  have key := State.arbitrate_induction (fun s t => ∃ q g p sc,
    t = { s with queue := q, grant := g, passOver := p, scrub := sc } ∧ unstaged q = unstaged s.queue) (s.zeroFill 16)
    (fun s => ⟨s.queue, s.grant, s.passOver, s.scrub, rfl, rfl⟩)
    (fun s c _ _ => ⟨(s.give c).queue, (s.give c).grant, (s.give c).passOver, s.scrub, rfl, s.give_unstaged c⟩)
    (fun s t _ _ _ h => h)
  obtain ⟨q, g, p, sc, he, hq⟩ := key
  refine ⟨q, ra, g, p, sc, ?_, ?_⟩
  · unfold State.settle
    rw [he, hz]
  · rw [hq, hz]

/-- While an operation is in progress the end of an event changes the read-ahead buffer alone. -/
theorem State.settle_busy (s : State) (h : s.grant ≠ none) : s.settle = s.zeroFill 16 :=
  State.arbitrate_busy _ (State.arrayFree_grant _ (by simpa using h))

/-- Where no line is FILLING the end of an event leaves the read-ahead buffer as it is. -/
theorem State.settle_idle (s : State) (h : s.readAhead.served = none) : s.settle = s.arbitrate := by
  unfold State.settle
  rw [State.zeroFill_idle _ _ h]

/-- A scrub that is not SWEEPING is not moved on by the end of an event. -/
theorem State.settle_scrub (s : State) (h : s.scrub.sweeping = false) : s.settle.scrub = s.scrub := by
  unfold State.settle
  rw [State.arbitrate_scrub _ (by simpa using h)]
  simp

end Sys2Proof.Machine
end

