-- ==== Sys2Proof/Laws/Queue.lean ====
section
/-! SUPPORT. The Posted Write Queue: the newest entry for a word, the placing of a beat, the decision of an offer (R40
to R49). -/

namespace Sys2Proof.Machine

/-! ### The newest entry -/

theorem newestFrom_entry (a : Nat) (q : List Entry) : ∀ i, (newestFrom a i q).map (·.2) = newestEntry q a := by
  induction q with
  | nil => intro i; rfl
  | cons e es ih =>
    intro i
    have h := ih (i + 1)
    rw [newestFrom]
    unfold newestEntry at h ⊢
    by_cases ha : e.address = a
    · rw [List.filter_cons_of_pos (by simpa using ha), List.getLast?_cons, ← h]
      cases newestFrom a (i + 1) es <;> simp [ha]
    · rw [List.filter_cons_of_neg (by simpa using ha), ← h]
      cases newestFrom a (i + 1) es <;> simp [ha]

/-- The queue's answer is the newest entry (R49). -/
theorem newestFor_entry (q : List Entry) (a : Nat) : (newestFor q a).map (·.2) = newestEntry q a :=
  newestFrom_entry a q 0

theorem newestFor_none (q : List Entry) (a : Nat) : newestFor q a = none ↔ newestEntry q a = none := by
  rw [← newestFor_entry]
  cases newestFor q a <;> simp

theorem newestFor_some (q : List Entry) (a : Nat) (e : Entry) (h : newestEntry q a = some e) :
    ∃ i, newestFor q a = some (i, e) := by
  rw [← newestFor_entry] at h
  cases hn : newestFor q a with
  | none => simp [hn] at h
  | some x => exact ⟨x.1, by simp [hn] at h; simp [← h]⟩

theorem newestEntry_none (q : List Entry) (a : Nat) : newestEntry q a = none ↔ ∀ e ∈ q, e.address ≠ a := by
  simp [newestEntry]

theorem newestFrom_place (a : Nat) (q : List Entry) : ∀ i j e, newestFrom a i q = some (j, e) →
    ∃ k, j = i + k ∧ q[k]? = some e ∧ e.address = a ∧ ∀ m f, k < m → q[m]? = some f → f.address ≠ a := by
  induction q with
  | nil => intro i j e h; cases h
  | cons x xs ih =>
    intro i j e h
    rw [newestFrom] at h
    cases hn : newestFrom a (i + 1) xs with
    | some y =>
      rw [hn] at h
      simp only [Option.some.injEq] at h
      subst h
      obtain ⟨k, hj, hk, ha, hl⟩ := ih _ _ _ hn
      refine ⟨k + 1, by omega, by simpa using hk, ha, fun m f hm hf => ?_⟩
      obtain ⟨m, rfl⟩ : ∃ n, m = n + 1 := ⟨m - 1, by omega⟩
      exact hl m f (by omega) (by simpa using hf)
    | none =>
      simp only [hn] at h
      split at h
      · rename_i ha
        simp only [Option.some.injEq, Prod.mk.injEq] at h
        obtain ⟨rfl, rfl⟩ := h
        refine ⟨0, by omega, rfl, ha, fun m f hm hf => ?_⟩
        obtain ⟨m, rfl⟩ : ∃ n, m = n + 1 := ⟨m - 1, by omega⟩
        have hnone : newestEntry xs a = none := by rw [← newestFrom_entry a xs (i + 1), hn]; rfl
        exact (newestEntry_none xs a).mp hnone f (List.mem_of_getElem? (by simpa using hf))
      · cases h

/-- The place of the newest entry: it holds the entry, and no later place holds an entry for the word. -/
theorem newestFor_place (q : List Entry) (a i : Nat) (e : Entry) (h : newestFor q a = some (i, e)) :
    q[i]? = some e ∧ e.address = a ∧ ∀ m f, i < m → q[m]? = some f → f.address ≠ a := by
  obtain ⟨k, hi, h⟩ := newestFrom_place a q 0 i e h
  obtain rfl : i = k := by omega
  exact h

/-! ### Offers -/

theorem holdsWord_iff (q : List Entry) (a : Nat) : holdsWord q a = true ↔ ∃ e ∈ q, e.address = a := by
  simp [holdsWord]

/-- The decision of an offer (R47). -/
theorem State.offer_cases (s : State) (kind : EntryKind) (a : Nat) (d : Word) :
    (offerAnswer s.queue a ≠ .queued ∧ s.offer kind a d = s) ∨
      (offerAnswer s.queue a = .queued ∧ (∀ e ∈ s.queue, e.address ≠ a) ∧ s.queue.length < 8 ∧
        s.offer kind a d = { s with queue := s.queue ++ [⟨kind, a, d, .full, false, .waiting⟩] }) := by
  unfold State.offer
  by_cases h : offerAnswer s.queue a = .queued
  · refine .inr ⟨h, ?_, ?_, by rw [if_pos h]⟩ <;>
      (unfold offerAnswer at h; split at h <;> [cases h; split at h <;> [skip; cases h]])
    · rename_i h1 _
      simpa [holdsWord] using h1
    · assumption
  · exact .inl ⟨h, by rw [if_neg h]⟩

/-! ### Placing -/

/-- A beat is placed in the WAITING entry for its word, or appended where there is none (R43). -/
theorem placeBeat_cases (locked through : Bool) (a : Nat) (b : Beat) (q : List Entry) : ∀ i,
    (∃ k e, q[k]? = some e ∧ e.address = a ∧ e.stage = .waiting ∧
      (∀ j f, j < k → q[j]? = some f → ¬ (f.address = a ∧ f.stage = .waiting)) ∧
      placeBeat locked through a b i q = ⟨q.set k (merged locked through b e), i + k, lost b e⟩) ∨
    ((∀ e ∈ q, ¬ (e.address = a ∧ e.stage = .waiting)) ∧
      placeBeat locked through a b i q = ⟨q ++ [appended locked through a b], i + q.length, false⟩) := by
  induction q with
  | nil => intro i; exact .inr ⟨by simp, rfl⟩
  | cons x xs ih =>
    intro i
    rw [placeBeat]
    by_cases h : x.address = a ∧ x.stage = .waiting
    · refine .inl ⟨0, x, rfl, h.1, h.2, by simp, ?_⟩
      rw [if_pos h]
      rfl
    · rw [if_neg h]
      rcases ih (i + 1) with ⟨k, e, hk, ha, hw, hl, hp⟩ | ⟨hn, hp⟩
      · refine .inl ⟨k + 1, e, by simpa using hk, ha, hw, fun j f hj hf => ?_, ?_⟩
        · cases j with
          | zero => simp at hf; subst hf; exact h
          | succ j => exact hl j f (by omega) (by simpa using hf)
        · rw [hp]
          simp
          omega
      · refine .inr ⟨fun e he => ?_, ?_⟩
        · rcases List.mem_cons.mp he with rfl | he
          · exact h
          · exact hn e he
        rw [hp]
        simp
        omega

/-! ### The queue stays well formed -/

theorem clash_comm (e f : Entry) : clash e f = clash f e := by
  simp only [clash, eq_comm (a := e.address)]
  cases decide (f.address = e.address) <;> cases decide (e.stage = .waiting) <;>
    cases decide (f.stage = .waiting) <;> rfl

/-- An entry appended to the queue (R40 to R43, R47). -/
theorem queueOk_append (q : List Entry) (e : Entry) (h : QueueOk q) (hl : q.length < 8) (hs : e.stage = .waiting)
    (hn : ∀ f ∈ q, ¬ (f.address = e.address ∧ f.stage = .waiting)) (he : e.lanes ≠ 0)
    (hk : e.kind = .repair ∨ e.kind = .poison → e.lanes = .full) : QueueOk (q ++ [e]) := by
  obtain ⟨h1, h2, h3, h4, h5⟩ := h
  refine ⟨by simp; omega, ?_, ?_, ?_, ?_⟩
  · rw [List.pairwise_append]
    refine ⟨h2, List.pairwise_singleton _ _, fun f hf g hg => ?_⟩
    rw [List.mem_singleton.mp hg]
    have := hn f hf
    simp only [clash, Bool.and_eq_false_imp, Bool.and_eq_true, decide_eq_true_eq, decide_eq_false_iff_not]
    intro ha
    exact absurd ha this
  · intro f hf
    cases q with
    | nil => simp at hf
    | cons x xs =>
      rcases List.mem_append.mp hf with hf | hf
      · exact h3 f hf
      · rw [List.mem_singleton.mp hf]
        exact hs
  · intro f hf
    rcases List.mem_append.mp hf with hf | hf
    · exact h4 f hf
    · rw [List.mem_singleton.mp hf]
      exact he
  · intro f hf
    rcases List.mem_append.mp hf with hf | hf
    · exact h5 f hf
    · rw [List.mem_singleton.mp hf]
      exact hk

/-- A merge keeps an entry's word and stage, and its lanes as its kind asks (R43 to R45). -/
theorem merged_keeps (locked through : Bool) (b : Beat) (e : Entry) (he : e.lanes ≠ 0)
    (hk : e.kind = .repair ∨ e.kind = .poison → e.lanes = .full) :
    (merged locked through b e).address = e.address ∧ (merged locked through b e).stage = e.stage ∧
      (merged locked through b e).lanes ≠ 0 ∧
      ((merged locked through b e).kind = .repair ∨ (merged locked through b e).kind = .poison →
        (merged locked through b e).lanes = .full) := by
  have or_ne : ∀ x y : Lanes, x ≠ 0 → x ||| y ≠ 0 := by decide
  obtain ⟨kind, a, d, l, w, st⟩ := e
  cases kind <;> cases locked <;> simp only [merged, beatKind] <;> (try split) <;> simp_all

/-- A merge into the entry at a place (R43). -/
theorem queueOk_set (q : List Entry) (i : Nat) (e f : Entry) (h : QueueOk q) (hi : q[i]? = some e)
    (ha : f.address = e.address) (hs : f.stage = e.stage) (hf : f.lanes ≠ 0)
    (hk : f.kind = .repair ∨ f.kind = .poison → f.lanes = .full) : QueueOk (q.set i f) := by
  obtain ⟨h1, h2, h3, h4, h5⟩ := h
  obtain ⟨hlt, he⟩ := List.getElem?_eq_some_iff.mp hi
  refine ⟨by simpa using h1, ?_, ?_, ?_, ?_⟩
  · rw [List.pairwise_iff_getElem] at h2 ⊢
    intro j k hj hk' hjk
    have := h2 j k (by simpa using hj) (by simpa using hk') hjk
    have key : ∀ (m : Nat) (hm : m < (q.set i f).length),
        (q.set i f)[m].address = (q[m]'(by simpa using hm)).address ∧
          (q.set i f)[m].stage = (q[m]'(by simpa using hm)).stage := by
      intro m hm
      rw [List.getElem_set]
      split
      · rename_i e'
        subst e'
        rw [he]
        exact ⟨ha, hs⟩
      · exact ⟨rfl, rfl⟩
    simp only [clash, key j hj, key k hk']
    exact this
  · intro g hg
    cases q with
    | nil => simp at hg
    | cons x xs =>
      cases i with
      | zero => exact h3 g hg
      | succ i =>
        rcases List.mem_or_eq_of_mem_set (show g ∈ xs.set i f from hg) with hg | rfl
        · exact h3 g hg
        · rw [hs]
          exact h3 e (List.mem_of_getElem? (by simpa using hi))
  · intro g hg
    rcases List.mem_or_eq_of_mem_set hg with hg | rfl
    · exact h4 g hg
    · exact hf
  · intro g hg
    rcases List.mem_or_eq_of_mem_set hg with hg | rfl
    · exact h5 g hg
    · exact hk

/-- The placing of a beat that enables a lane keeps the queue well formed (R40 to R45). -/
theorem placeBeat_ok (locked through : Bool) (a : Nat) (b : Beat) (q : List Entry) (h : QueueOk q) (hl : q.length < 8)
    (hb : b.lanes ≠ 0) : QueueOk (placeBeat locked through a b 0 q).queue := by
  rcases placeBeat_cases locked through a b q 0 with ⟨k, e, hk, _, _, _, hp⟩ | ⟨hn, hp⟩ <;> rw [hp]
  · have he := List.mem_of_getElem? hk
    obtain ⟨h1, h2, h3, h4⟩ := merged_keeps locked through b e (h.2.2.2.1 e he) (h.2.2.2.2 e he)
    exact queueOk_set q k e _ h hk h1 h2 h3 h4
  · refine queueOk_append q _ h hl rfl hn hb ?_
    cases locked <;> simp [appended, beatKind]

/-- An offer of an entry keeps the queue well formed (R47). -/
theorem State.offer_ok (s : State) (kind : EntryKind) (a : Nat) (d : Word) (h : QueueOk s.queue) :
    QueueOk (s.offer kind a d).queue := by
  rcases s.offer_cases kind a d with ⟨_, e⟩ | ⟨_, hn, hl, e⟩ <;> rw [e]
  · exact h
  · exact queueOk_append _ _ h hl rfl (fun f hf hx => hn f hf hx.1) (show Lanes.full ≠ 0 by decide) fun _ => rfl

end Sys2Proof.Machine
end

