-- ==== Sys2Proof/Laws/Upstream.lean ====
section
/-! SUPPORT. What presenting a request comes to, and what each acceptance check decides (R21 to R28). -/

namespace Sys2Proof.Machine

/-- A well-formed request command presents its request. -/
theorem exec_request (c : Instr) (req : Request) (s : State) (hc : requestOf c = some req) (hw : c.wellFormed = true) :
    exec c s = .next (s.present req) := by
  cases c <;>
    simp_all [requestOf, exec, execReadRequest, execWriteRequest, execLockedReadRequest, execLockedWriteRequest]

/-- A request presented in READY, with none held, is checked. -/
theorem State.present_ready (s : State) (req : Request) (h : Presentable s) :
    s.present req = (s.check req).settle := by
  obtain ⟨hp, hh⟩ := h
  have e : ({ s with held := none } : State) = s := by rw [← hh]
  unfold State.present
  rw [if_pos (.inl hh), if_pos hp, e]

theorem modePasses_iff (s : State) (req : Request) : modePasses s.faults.mode req.op = true ↔ ModeAdmits s req := by
  cases h : s.faults.mode <;> cases ho : req.op <;> simp [modePasses, ModeAdmits, h, ho]

theorem lockRules_taken_iff (s : State) (req : Request) : lockRules s.lock req = .taken ↔ LockAdmits s req := by
  unfold lockRules LockAdmits
  cases hl : req.locked <;> simp only [Bool.not_true, Bool.not_false, if_true, Bool.false_eq_true, if_false, true_or]
  by_cases h1 : req.count = 1
  · cases ho : req.op <;> cases hs : s.lock <;> simp [h1]
    rename_i l
    cases hst : l.state <;> simp
  · simp [h1]

theorem rangePasses_iff (s : State) (req : Request) :
    rangePasses s.settings.rangePolicy s.straps.visible req = true ↔ RangeAdmits s req := by
  unfold rangePasses RangeAdmits
  cases s.settings.rangePolicy <;> simp [Request.inRange, Request.beatAddress]
  exact forall₂_congr fun _ _ => decide_eq_true_iff

theorem guardPasses_iff (s : State) (req : Request) :
    guardPasses s.settings s.straps req = true ↔ GuardAdmits s req := by
  unfold guardPasses GuardAdmits
  cases req.op <;> simp [guarded, guardBit, Request.beatAddress, Straps.regionWords]
  grind

/-- The four checks pass exactly on an admitted request. -/
theorem State.acceptance_taken_iff (s : State) (req : Request) : s.acceptance req = .taken ↔ Admitted s req := by
  unfold State.acceptance Admitted
  rw [← modePasses_iff, ← lockRules_taken_iff, ← rangePasses_iff, ← guardPasses_iff]
  cases modePasses s.faults.mode req.op <;> cases lockRules s.lock req <;>
    cases rangePasses s.settings.rangePolicy s.straps.visible req <;>
    cases guardPasses s.settings s.straps req <;> simp

/-- An admitted request is taken. -/
theorem State.check_admitted (s : State) (req : Request) (h : Admitted s req) : s.check req = s.take req := by
  unfold State.check
  rw [(s.acceptance_taken_iff req).mpr h]

end Sys2Proof.Machine
end

