-- ==== Sys2Proof/Laws/ReadPath.lean ====
section
/-! SUPPORT. What touching a line and taking a beat come to (R34, R70 to R73). -/

namespace Sys2Proof.Machine

/-- A prefetch that starts changes the read-ahead buffer, and can part a PREFETCH grant in progress from its entry. -/
theorem State.startPrefetch_eq (s : State) (line : Nat) :
    ∃ ra, s.startPrefetch line =
      { s with readAhead := ra, grant := detached (fun i => i = s.readAhead.taken) s.grant } := by
  obtain ⟨ra, h⟩ := State.zeroFill_eq 16 { s with
    readAhead := s.readAhead.start line, grant := detached (fun i => i = s.readAhead.taken) s.grant }
  exact ⟨ra, h⟩

/-- A touch changes the read-ahead buffer, and can part a PREFETCH grant in progress from its entry. -/
theorem State.touchLine_eq (s : State) (a : Nat) :
    ∃ ra g, s.touchLine a = { s with readAhead := ra, grant := g } ∧
      (g = s.grant ∨ g = detached (fun i => i = s.readAhead.taken) s.grant) := by
  unfold State.touchLine
  split
  · obtain ⟨ra, h⟩ := s.startPrefetch_eq (lineOf a + 1)
    exact ⟨ra, _, h, .inr rfl⟩
  · exact ⟨_, _, rfl, .inl rfl⟩

/-- Touching a line touches nothing else. -/
theorem State.touchLine_apart (s : State) (a : Nat) : GrantsApart s (s.touchLine a) := by
  obtain ⟨ra, g, h, _⟩ := s.touchLine_eq a
  rw [h]
  exact ⟨rfl, rfl⟩

theorem GrantsApart.trans {s t u : State} (h : GrantsApart s t) (k : GrantsApart t u) : GrantsApart s u := by
  obtain ⟨h1, h2⟩ := h
  obtain ⟨k1, k2⟩ := k
  refine ⟨?_, k2.trans h2⟩
  rw [k1, h1]

theorem State.settle_apart (s : State) : GrantsApart s s.settle := by
  obtain ⟨q, ra, g, p, sc, h, hu⟩ := s.settle_eq
  unfold GrantsApart
  rw [h]
  exact ⟨rfl, hu⟩

/-- A full-lane entry of the queue answers a beat (R34, case 1). -/
theorem State.takeBeat_full (s : State) (a : Nat) (e : Entry) (h : newestEntry s.queue a = some e)
    (hk : e.kind ≠ .poison) (hl : e.lanes = .full) : s.takeBeat a = (.data e.data, s) := by
  obtain ⟨i, hi⟩ := newestFor_some _ _ _ h
  simp [State.takeBeat, hi, hk, hl]

/-- A POISON entry of the queue answers a beat ERROR (R34, case 1). -/
theorem State.takeBeat_poison (s : State) (a : Nat) (e : Entry) (h : newestEntry s.queue a = some e)
    (hk : e.kind = .poison) : s.takeBeat a = (.error, s.occur .readUncorrectable) := by
  obtain ⟨i, hi⟩ := newestFor_some _ _ _ h
  simp [State.takeBeat, hi, hk]

/-- A beat waits for the drain of a partial entry (R34, case 2). -/
theorem State.takeBeat_partial (s : State) (a : Nat) (e : Entry) (h : newestEntry s.queue a = some e)
    (hk : e.kind ≠ .poison) (hl : e.lanes ≠ .full) :
    ∃ i, s.takeBeat a = (.wait (.onEntry i), s) ∧ s.queue[i]? = some e ∧
      ∀ j f, i < j → s.queue[j]? = some f → f.address ≠ a := by
  obtain ⟨i, hi⟩ := newestFor_some _ _ _ h
  refine ⟨i, by simp [State.takeBeat, hi, hk, hl], ?_⟩
  obtain ⟨h1, _, h3⟩ := newestFor_place _ _ _ _ hi
  exact ⟨h1, h3⟩

/-- Without a queue entry a beat goes to the read-ahead line, and without a line to the array (R34, cases 3 and 4). -/
theorem State.takeBeat_none (s : State) (a : Nat) (h : newestEntry s.queue a = none) :
    s.takeBeat a =
      match s.readAhead.entryFor (lineOf a) with
      | .valid _ _ slots =>
        match slots[a % 8]? with
        | some (.good w) => (.data w, s)
        | some (.bad _ kind syndrome location) => (.error, s.deliverBad a kind syndrome location)
        | none => (s.arrayCase a, s)
      | .filling line _ _ => (.wait (.onLine line), s)
      | .empty => (s.arrayCase a, s) := by
  have hn := (newestFor_none s.queue a).mpr h
  unfold State.takeBeat
  rw [hn] <;> rfl

theorem State.arrayCase_unfilled (s : State) (a : Nat) (h : s.fill.filling = true)
    (hw : s.fill.watermark ≤ (s.translate a).1) : s.arrayCase a = .data 0 := by
  simp [State.arrayCase, State.unfilled, h, hw]

theorem State.arrayCase_filled (s : State) (a : Nat)
    (h : s.fill.filling = false ∨ (s.translate a).1 < s.fill.watermark) : s.arrayCase a = .wait .onArray := by
  have : s.unfilled (s.translate a).1 = false := by
    unfold State.unfilled
    rcases h with h | h
    · simp [h]
    · simp only [Bool.and_eq_false_imp, decide_eq_false_iff_not]
      omega
  simp [State.arrayCase, this]

/-- Taking a beat sends nothing, and leaves the array, the transaction, the settings, the link and the queue of commands
as they are. -/
theorem State.takeBeat_frame (s : State) (a : Nat) :
    (s.takeBeat a).2.upSent = s.upSent ∧ (s.takeBeat a).2.mem = s.mem ∧ (s.takeBeat a).2.txn = s.txn ∧
    (s.takeBeat a).2.port = s.port ∧ (s.takeBeat a).2.fill = s.fill ∧ (s.takeBeat a).2.spareMap = s.spareMap ∧
    (s.takeBeat a).2.settings = s.settings ∧ (s.takeBeat a).2.link = s.link ∧
    (s.takeBeat a).2.svcSent = s.svcSent ∧ (s.takeBeat a).2.pending = s.pending := by
  cases h : newestEntry s.queue a with
  | some e =>
    by_cases hk : e.kind = .poison
    · rw [s.takeBeat_poison a e h hk]
      simp
    · by_cases hl : e.lanes = .full
      · rw [s.takeBeat_full a e h hk hl]
        simp
      · obtain ⟨i, hi, _⟩ := s.takeBeat_partial a e h hk hl
        rw [hi]
        simp
  | none =>
    rw [s.takeBeat_none a h]
    cases s.readAhead.entryFor (lineOf a) with
    | empty => simp
    | filling line earlier slots => simp
    | valid line earlier slots =>
      cases hs : slots[a % 8]? with
      | none => simp [hs]
      | some x => cases x <;> simp [hs, State.deliverBad]

/-- The service of beats adds to what has been sent, and leaves the array, the settings, the link and the queue of
commands as they are (R34 to R36). -/
theorem State.serveBeats_frame (req : Request) (marks : Option (List Bool)) (n : Nat) :
    ∀ (fresh : Bool) (s : State),
      (∃ l, (State.serveBeats req marks n fresh s).upSent = s.upSent ++ l) ∧
      (State.serveBeats req marks n fresh s).mem = s.mem ∧
      (State.serveBeats req marks n fresh s).fill = s.fill ∧
      (State.serveBeats req marks n fresh s).spareMap = s.spareMap ∧
      (State.serveBeats req marks n fresh s).settings = s.settings ∧
      (State.serveBeats req marks n fresh s).link = s.link ∧
      (State.serveBeats req marks n fresh s).svcSent = s.svcSent ∧
      (State.serveBeats req marks n fresh s).pending = s.pending := by
  induction n with
  | zero => exact fun _ s => ⟨⟨[], by simp [State.serveBeats]⟩, by simp [State.serveBeats]⟩
  | succ n ih =>
    intro fresh s
    rw [State.serveBeats]
    dsimp only
    split
    · generalize ht : (if (fresh && (decide (req.count - (n + 1) = 0) ||
        decide (req.beatAddress (req.count - (n + 1)) % 8 = 0))) = true then
          s.touchLine (req.beatAddress (req.count - (n + 1))) else s) = t
      have hf : t.upSent = s.upSent ∧ t.mem = s.mem ∧ t.fill = s.fill ∧ t.spareMap = s.spareMap ∧
          t.settings = s.settings ∧ t.link = s.link ∧ t.svcSent = s.svcSent ∧ t.pending = s.pending := by
        rw [← ht]
        split
        · obtain ⟨ra, g, h, _⟩ := s.touchLine_eq (req.beatAddress (req.count - (n + 1)))
          rw [h]
          simp
        · simp
      obtain ⟨h1, h2, _, _, h5, h6, h7, h8, h9, h10⟩ := t.takeBeat_frame (req.beatAddress (req.count - (n + 1)))
      generalize t.takeBeat (req.beatAddress (req.count - (n + 1))) = r at h1 h2 h5 h6 h7 h8 h9 h10
      obtain ⟨ans, u⟩ := r
      dsimp only at h1 h2 h5 h6 h7 h8 h9 h10 ⊢
      obtain ⟨f1, f2, f3, f4, f5, f6, f7, f8⟩ := hf
      cases ans with
      | data w =>
        obtain ⟨⟨l, hl⟩, hr⟩ := ih true (u.respond (.beatOk w))
        refine ⟨⟨.beatOk w :: l, hl.trans ?_⟩, ?_⟩
        · simp [State.respond, h1, f1]
        · simp_all
      | error =>
        refine ⟨⟨[.beatError], ?_⟩, ?_⟩
        · simp [State.respond, h1, f1]
        · simp_all
      | wait w =>
        refine ⟨⟨[], ?_⟩, ?_⟩
        · simp [h1, f1]
        · simp_all
    · obtain ⟨⟨l, hl⟩, hr⟩ := ih true (s.respond (.beatOk 0))
      exact ⟨⟨.beatOk 0 :: l, hl.trans (by simp [State.respond])⟩, by simpa using hr⟩

end Sys2Proof.Machine
end

