-- ==== Sys2Proof/Laws/Beats.lean ====
section
/-! SUPPORT. The beats of a read (R34 to R36): their service does not look at the transaction record that stands, so a
burst is served beat by beat, each as a beat that is taken again. -/

namespace Sys2Proof.Machine

/-- A state with another transaction at the port. -/
def State.atPort (s : State) (p : PortState) (x : Option Transaction) : State := { s with port := p, txn := x }

theorem State.atPort_occur (s : State) (p : PortState) (x : Option Transaction) (src : FaultSource) :
    (s.atPort p x).occur src = (s.occur src).atPort p x := rfl

theorem State.atPort_offer (s : State) (p : PortState) (x : Option Transaction) (k : EntryKind) (a : Nat) (d : Word) :
    (s.atPort p x).offer k a d = (s.offer k a d).atPort p x := by
  unfold State.offer
  change (if offerAnswer s.queue a = .queued then _ else _) = _
  split <;> rfl

theorem State.atPort_examine (s : State) (p : PortState) (x : Option Transaction) (a : Nat) :
    (s.atPort p x).examine a = (s.examine a).atPort p x := by
  have h : (s.atPort p x).records = s.records ∧ (s.atPort p x).settings = s.settings ∧
    (s.atPort p x).spareMap = s.spareMap := ⟨rfl, rfl, rfl⟩
  simp only [State.examine, h]
  split
  · rfl
  · split
    · split <;> rfl
    · rfl

theorem State.atPort_arrive (s : State) (p : PortState) (x : Option Transaction) (a : Arrival) :
    (s.atPort p x).arrive a = (s.arrive a).atPort p x := by
  have h : (s.atPort p x).records = s.records := rfl
  simp only [State.arrive, h]
  split
  · rfl
  · exact State.atPort_examine { s with records := _ } p x a.address

theorem State.atPort_deliverBad (s : State) (p : PortState) (x : Option Transaction) (a : Nat) (k : Detected)
    (y : Option Syndrome) (loc : Location) :
    (s.atPort p x).deliverBad a k y loc = (s.deliverBad a k y loc).atPort p x := by
  unfold State.deliverBad
  dsimp only
  rw [State.atPort_occur, State.atPort_offer]
  have h : ((s.occur .readUncorrectable).atPort p x).queue = (s.occur .readUncorrectable).queue := rfl
  rw [h]
  generalize (s.occur FaultSource.readUncorrectable).offer EntryKind.poison a 0 = t
  have h2 : (t.atPort p x).records = t.records := rfl
  simp only [State.deliveryReport, h2]
  split
  · rfl
  · exact State.atPort_arrive _ _ _ _

theorem State.atPort_takeBeat (s : State) (p : PortState) (x : Option Transaction) (a : Nat) :
    (s.atPort p x).takeBeat a = ((s.takeBeat a).1, (s.takeBeat a).2.atPort p x) := by
  have h : (s.atPort p x).queue = s.queue ∧ (s.atPort p x).readAhead = s.readAhead := ⟨rfl, rfl⟩
  have h2 : (s.atPort p x).arrayCase a = s.arrayCase a := rfl
  simp only [State.takeBeat, h, h2]
  split
  · split
    · rfl
    · split <;> rfl
  · split
    · split
      · rfl
      · rw [State.atPort_deliverBad]
      · rfl
    · rfl
    · rfl

theorem State.atPort_zeroFill (n : Nat) (p : PortState) (x : Option Transaction) : ∀ s : State,
    (s.atPort p x).zeroFill n = (s.zeroFill n).atPort p x := by
  induction n with
  | zero => exact fun _ => rfl
  | succ n ih =>
    intro s
    have h : (s.atPort p x).prefetchWord = s.prefetchWord := rfl
    simp only [State.zeroFill, h]
    split
    · rfl
    · rename_i i a _
      have h2 : (s.atPort p x).unfilled ((s.atPort p x).translate a).1 = s.unfilled (s.translate a).1 := rfl
      rw [h2]
      split
      · exact ih (s.fillSlot i (.good 0))
      · rfl

theorem State.atPort_touchLine (s : State) (p : PortState) (x : Option Transaction) (a : Nat) :
    (s.atPort p x).touchLine a = (s.touchLine a).atPort p x := by
  have h : ((s.atPort p x).settings.readAhead && (s.atPort p x).mayPrefetch (lineOf a + 1)) =
    (s.settings.readAhead && s.mayPrefetch (lineOf a + 1)) := rfl
  simp only [State.touchLine, h]
  split
  · exact State.atPort_zeroFill 16 p x { s with
      readAhead := s.readAhead.start (lineOf a + 1), grant := detached (fun i => i = s.readAhead.taken) s.grant }
  · rfl

/-- The service of beats does not look at the transaction record that stands. -/
theorem State.atPort_serveBeats (req : Request) (marks : Option (List Bool)) (n : Nat) (p : PortState)
    (x : Option Transaction) : ∀ (fresh : Bool) (s : State),
    State.serveBeats req marks n fresh (s.atPort p x) = State.serveBeats req marks n fresh s := by
  induction n with
  | zero => exact fun _ _ => rfl
  | succ n ih =>
    intro fresh s
    simp only [State.serveBeats]
    split
    · generalize hb : (fresh && (decide (req.count - (n + 1) = 0) ||
        decide (req.beatAddress (req.count - (n + 1)) % 8 = 0))) = b
      have h : (if b = true then (s.atPort p x).touchLine (req.beatAddress (req.count - (n + 1))) else s.atPort p x) =
        (if b = true then s.touchLine (req.beatAddress (req.count - (n + 1))) else s).atPort p x := by
        split
        · exact s.atPort_touchLine p x _
        · rfl
      rw [h, State.atPort_takeBeat]
      generalize (if b = true then s.touchLine (req.beatAddress (req.count - (n + 1))) else s) = t
      generalize t.takeBeat (req.beatAddress (req.count - (n + 1))) = r
      obtain ⟨ans, u⟩ := r
      cases ans with
      | data w => exact ih true (u.respond (.beatOk w))
      | error => rfl
      | wait w => rfl
    · exact ih true (s.respond (.beatOk 0))


/-- A beat whose wait is over is taken again, with no touch (R35). -/
theorem exec_readBeatRetaken (s : State) (req : Request) (marks : Option (List Bool)) (i : Nat) (w : BeatWait)
    (hp : s.port = .readActive) (ht : s.txn = some ⟨req, marks, .read i w⟩) (hw : s.waitOver w = true) :
    exec .readBeatRetaken s = .next (State.serveBeats req marks (req.count - i) false s).settle := by
  simp [exec, execReadBeatRetaken, hp, ht, hw, State.retakeBeat]

/-- A beat that is handed to the Read Path touches its line where it begins a run, and is taken as one whose wait is
over (R34, R71). -/
theorem serveBeats_onBeat (s : State) (req : Request) (marks : Option (List Bool)) (i : Nat) (hi : i < req.count) :
    exec .readBeatRetaken (s.onBeat req marks i) =
      .next (State.serveBeats req marks (req.count - i) true s).settle := by
  rw [exec_readBeatRetaken (s.onBeat req marks i) req marks i .over rfl rfl rfl]
  obtain ⟨n, hn⟩ : ∃ n, req.count - i = n + 1 := ⟨req.count - i - 1, by omega⟩
  have hni : req.count - (n + 1) = i := by omega
  rw [hn]
  have key : State.serveBeats req marks (n + 1) false (s.onBeat req marks i) =
      State.serveBeats req marks (n + 1) true s := by
    let t : State := if markedInRange marks i = true ∧ (i = 0 ∨ req.beatAddress i % 8 = 0) then
      s.touchLine (req.beatAddress i) else s
    have ht : s.onBeat req marks i = t.atPort .readActive (some ⟨req, marks, .read i .over⟩) := rfl
    rw [ht, State.atPort_serveBeats]
    simp only [State.serveBeats, hni]
    by_cases hm : markedInRange marks i = true
    · have : t = if (i = 0 || req.beatAddress i % 8 = 0) = true then s.touchLine (req.beatAddress i) else s := by
        simp [t, hm]
      simp [hm, this]
    · have hm' : markedInRange marks i = false := by simpa using hm
      have : t = s := by simp [t, hm']
      simp [hm', this]
  rw [key]

/-- What follows an answered beat is the service of the rest of the burst (R34, R36). -/
theorem State.afterBeat_eq (s : State) (req : Request) (marks : Option (List Bool)) (i : Nat) (hi : i < req.count) :
    s.afterBeat req marks i = .next (State.serveBeats req marks (req.count - (i + 1)) true s).settle := by
  unfold State.afterBeat
  split
  · rename_i h
    rw [← h, Nat.sub_self]
    rfl
  · exact serveBeats_onBeat s req marks (i + 1) (by omega)

end Sys2Proof.Machine
end

