-- ==== Sys2Proof/Laws/Memory.lean ====
section
/-! SUPPORT. The array: what a read gives after a write, a fill or a change of bits, and that each keeps the canonical
form (R1, R7, R135). -/

namespace Sys2Proof.Machine

/-! ### Lists of locations -/

theorem listed_unlist_other (cs : List (Nat × StoredWord)) (a b : Nat) (h : a ≠ b) :
    listed (unlist cs a) b = listed cs b := by
  induction cs with
  | nil => rfl
  | cons c cs ih =>
    by_cases hc : c.1 = a
    · have hb : c.1 ≠ b := by omega
      simp [unlist, listed, hc, h]
    · simp only [unlist, hc, if_false, listed]
      rw [ih]

theorem listed_enlist_same (cs : List (Nat × StoredWord)) (a : Nat) (w : StoredWord) :
    listed (enlist cs a w) a = some w := by
  induction cs with
  | nil => simp [enlist, listed]
  | cons c cs ih =>
    unfold enlist
    split
    · simp [listed]
    · split
      · simp [listed]
      · rename_i h _
        simp [listed, h, ih]

theorem listed_enlist_other (cs : List (Nat × StoredWord)) (a b : Nat) (w : StoredWord) (h : a ≠ b) :
    listed (enlist cs a w) b = listed cs b := by
  induction cs with
  | nil => simp [enlist, listed, h]
  | cons c cs ih =>
    unfold enlist
    split
    · rename_i hc
      have hb : c.1 ≠ b := by omega
      simp [listed, h, hb]
    · split
      · simp [listed, h]
      · simp only [listed]
        rw [ih]

/-- Every location of a rising list that starts above a bound is above it. -/
theorem rising_above (cs : List (Nat × StoredWord)) (c : Nat × StoredWord) (h : rising (c :: cs) = true) :
    ∀ d ∈ cs, c.1 < d.1 := by
  induction cs generalizing c with
  | nil => simp
  | cons d cs ih =>
    simp only [rising, Bool.and_eq_true, decide_eq_true_eq] at h
    intro e he
    rcases List.mem_cons.mp he with rfl | he
    · exact h.1
    · exact Nat.lt_trans h.1 (ih d h.2 e he)

theorem rising_tail (cs : List (Nat × StoredWord)) (c : Nat × StoredWord) (h : rising (c :: cs) = true) :
    rising cs = true := by
  cases cs with
  | nil => rfl
  | cons d cs => simp_all [rising]

theorem rising_cons (cs : List (Nat × StoredWord)) (c : Nat × StoredWord) (h : rising cs = true)
    (hc : ∀ d ∈ cs, c.1 < d.1) : rising (c :: cs) = true := by
  cases cs with
  | nil => rfl
  | cons d cs => simp [rising, h, hc d (by simp)]

theorem listed_none_of_above (cs : List (Nat × StoredWord)) (a : Nat) (h : ∀ d ∈ cs, a < d.1) :
    listed cs a = none := by
  induction cs with
  | nil => rfl
  | cons c cs ih =>
    have hc := h c (by simp)
    simp [listed, show c.1 ≠ a by omega, ih fun d hd => h d (by simp [hd])]

theorem listed_unlist_same (cs : List (Nat × StoredWord)) (a : Nat) (h : rising cs = true) :
    listed (unlist cs a) a = none := by
  induction cs with
  | nil => rfl
  | cons c cs ih =>
    by_cases hc : c.1 = a
    · simp only [unlist, hc, if_true]
      exact listed_none_of_above cs a fun d hd => hc ▸ rising_above cs c h d hd
    · simp [unlist, hc, listed, ih (rising_tail cs c h)]

theorem mem_unlist (cs : List (Nat × StoredWord)) (a : Nat) (d : Nat × StoredWord) (h : d ∈ unlist cs a) : d ∈ cs := by
  induction cs with
  | nil => exact h
  | cons c cs ih =>
    unfold unlist at h
    split at h
    · exact List.mem_cons_of_mem _ h
    · rcases List.mem_cons.mp h with rfl | h
      · simp
      · exact List.mem_cons_of_mem _ (ih h)

theorem mem_enlist (cs : List (Nat × StoredWord)) (a : Nat) (w : StoredWord) (d : Nat × StoredWord)
    (h : d ∈ enlist cs a w) : d = (a, w) ∨ d ∈ cs := by
  induction cs with
  | nil => simpa [enlist] using h
  | cons c cs ih =>
    unfold enlist at h
    split at h
    · rcases List.mem_cons.mp h with h | h
      · exact .inl h
      · exact .inr (List.mem_cons_of_mem _ h)
    · split at h
      · rcases List.mem_cons.mp h with h | h
        · exact .inl h
        · exact .inr h
      · rcases List.mem_cons.mp h with h | h
        · exact .inr (by simp [h])
        · rcases ih h with h | h
          · exact .inl h
          · exact .inr (List.mem_cons_of_mem _ h)

theorem rising_unlist (cs : List (Nat × StoredWord)) (a : Nat) (h : rising cs = true) : rising (unlist cs a) = true := by
  induction cs with
  | nil => rfl
  | cons c cs ih =>
    unfold unlist
    split
    · exact rising_tail cs c h
    · exact rising_cons _ c (ih (rising_tail cs c h)) fun d hd => rising_above cs c h d (mem_unlist cs a d hd)

theorem rising_enlist (cs : List (Nat × StoredWord)) (a : Nat) (w : StoredWord) (h : rising cs = true) :
    rising (enlist cs a w) = true := by
  induction cs with
  | nil => rfl
  | cons c cs ih =>
    have ha := rising_above cs c h
    have ht := rising_tail cs c h
    unfold enlist
    split
    · rename_i hc
      exact rising_cons cs (a, w) ht fun d hd => hc ▸ ha d hd
    · split
      · rename_i hlt
        refine rising_cons (c :: cs) (a, w) h fun d hd => ?_
        rcases List.mem_cons.mp hd with rfl | hd
        · exact hlt
        · exact Nat.lt_trans hlt (ha d hd)
      · rename_i hne hnlt
        refine rising_cons _ c (ih ht) fun d hd => ?_
        rcases mem_enlist cs a w d hd with rfl | hd
        · show c.1 < a
          omega
        · exact ha d hd

/-! ### Reads after writes -/

theorem Memory.read_write_same (m : Memory) (loc : Nat) (w : StoredWord) (h : m.wf = true) :
    (m.write loc w).read loc = w := by
  simp only [Memory.wf, Bool.and_eq_true] at h
  by_cases hw : w = m.base loc
  · have e : m.write loc w = { m with cells := unlist m.cells loc } := by simp [Memory.write, hw]
    simp only [e, Memory.read, listed_unlist_same m.cells loc h.1]
    exact hw.symm
  · have e : m.write loc w = { m with cells := enlist m.cells loc w } := by simp [Memory.write, hw]
    simp [e, Memory.read, listed_enlist_same]

theorem Memory.read_write_other (m : Memory) (loc l : Nat) (w : StoredWord) (h : loc ≠ l) :
    (m.write loc w).read l = m.read l := by
  by_cases hw : w = m.base loc
  · have e : m.write loc w = { m with cells := unlist m.cells loc } := by simp [Memory.write, hw]
    simp only [e, Memory.read, listed_unlist_other m.cells loc l h]
    rfl
  · have e : m.write loc w = { m with cells := enlist m.cells loc w } := by simp [Memory.write, hw]
    simp only [e, Memory.read, listed_enlist_other m.cells loc l w h]
    rfl

theorem Memory.wf_write (m : Memory) (loc : Nat) (w : StoredWord) (h : m.wf = true) : (m.write loc w).wf = true := by
  simp only [Memory.wf, Bool.and_eq_true, List.all_eq_true, decide_eq_true_eq] at h ⊢
  by_cases hw : w = m.base loc
  · have e : m.write loc w = { m with cells := unlist m.cells loc } := by simp [Memory.write, hw]
    rw [e]
    exact ⟨rising_unlist m.cells loc h.1, fun c hc => h.2 c (mem_unlist m.cells loc c hc)⟩
  · have e : m.write loc w = { m with cells := enlist m.cells loc w } := by simp [Memory.write, hw]
    rw [e]
    refine ⟨rising_enlist m.cells loc w h.1, fun c hc => ?_⟩
    rcases mem_enlist m.cells loc w c hc with rfl | hc
    · exact hw
    · exact h.2 c hc

@[simp] theorem Memory.filled_write (m : Memory) (loc : Nat) (w : StoredWord) :
    (m.write loc w).filled = m.filled ∧ (m.write loc w).epoch = m.epoch := ⟨rfl, rfl⟩

/-! ### The SRAM's own changes -/

theorem Memory.wf_disturbed (m : Memory) (loc : Nat) (u : Upset) (h : m.wf = true) : (m.disturbed loc u).wf = true := by
  unfold Memory.disturbed
  split
  · exact h
  · exact m.wf_write loc _ h

theorem StoredWord.flip_zero (w : StoredWord) : w.flip .zero = w := by
  simp [StoredWord.flip, StoredWord.zero]

theorem Memory.read_disturbed_same (m : Memory) (loc : Nat) (u : Upset) (h : m.wf = true) :
    (m.disturbed loc u).read loc = (m.read loc).flip u := by
  unfold Memory.disturbed
  split
  · rename_i hu
    rw [hu]
    exact (StoredWord.flip_zero _).symm
  · exact m.read_write_same loc _ h

theorem Memory.read_disturbed_other (m : Memory) (loc l : Nat) (u : Upset) (h : loc ≠ l) :
    (m.disturbed loc u).read l = m.read l := by
  unfold Memory.disturbed
  split
  · rfl
  · exact m.read_write_other loc l _ h

@[simp] theorem Memory.disturbed_zero (m : Memory) (loc : Nat) : m.disturbed loc .zero = m := by
  simp [Memory.disturbed]

@[simp] theorem Memory.filled_disturbed (m : Memory) (loc : Nat) (u : Upset) :
    (m.disturbed loc u).filled = m.filled ∧ (m.disturbed loc u).epoch = m.epoch := by
  unfold Memory.disturbed
  split <;> simp

/-! ### The fill -/

theorem Memory.wf_fillAt (m : Memory) (loc : Nat) (h : m.wf = true) : (m.fillAt loc).wf = true := by
  unfold Memory.fillAt
  split
  · rename_i he
    simp only [Memory.wf, Bool.and_eq_true, List.all_eq_true, decide_eq_true_eq] at h ⊢
    refine ⟨rising_unlist m.cells loc h.1, fun c hc => ?_⟩
    have hne : c.1 ≠ loc := by
      intro hcl
      have := listed_unlist_same m.cells loc h.1
      have hex : ∀ (cs : List (Nat × StoredWord)), c ∈ cs → listed cs c.1 ≠ none := by
        intro cs
        induction cs with
        | nil => simp
        | cons d cs ih =>
          intro hm
          unfold listed
          split
          · simp
          · rcases List.mem_cons.mp hm with rfl | hm
            · rename_i hn
              exact absurd rfl hn
            · exact ih hm
      exact hex _ hc (hcl ▸ this)
    have := h.2 c (mem_unlist m.cells loc c hc)
    have hb : ∀ l, l ≠ loc →
        Memory.base { m with cells := unlist m.cells loc, filled := loc + 1 } l = m.base l := by
      intro l hl
      simp only [Memory.base]
      by_cases hlt : l < m.filled
      · simp [hlt, show l < loc + 1 by omega]
      · simp [hlt, show ¬ l < loc + 1 by omega]
    rw [hb c.1 hne]
    exact this
  · exact m.wf_write loc _ h

theorem Memory.read_fillAt_same (m : Memory) (loc : Nat) (h : m.wf = true) : (m.fillAt loc).read loc = .zero := by
  unfold Memory.fillAt
  split
  · simp only [Memory.wf, Bool.and_eq_true] at h
    simp [Memory.read, listed_unlist_same m.cells loc h.1, Memory.base]
  · exact m.read_write_same loc _ h

theorem Memory.read_fillAt_other (m : Memory) (loc l : Nat) (h : loc ≠ l) : (m.fillAt loc).read l = m.read l := by
  unfold Memory.fillAt
  split
  · simp only [Memory.read, listed_unlist_other m.cells loc l h, Memory.base]
    by_cases hlt : l < m.filled
    · simp [hlt, show l < loc + 1 by omega]
    · simp [hlt, show ¬ l < loc + 1 by omega]
  · exact m.read_write_other loc l _ h

/-- The first location with power-on contents never falls, and passes a location that is filled. -/
theorem Memory.filled_fillAt (m : Memory) (loc : Nat) :
    m.filled ≤ (m.fillAt loc).filled ∧ (loc ≤ m.filled → loc + 1 ≤ (m.fillAt loc).filled) := by
  unfold Memory.fillAt
  split
  · exact ⟨by simp; omega, by simp⟩
  · exact ⟨by simp, by simp; omega⟩

end Sys2Proof.Machine
end

