-- ==== Sys2Proof/Laws/Code.lean ====
section
/-! SUPPORT. What a decode gives (R10 to R13), and what a read of the array behind a grant finds (log 4). -/

namespace Sys2Proof.Machine

/-- The outcomes of a decode, with everything the result carries (R10, R11, R13). -/
theorem decode_cases (w : StoredWord) :
    (w.mark = true ∧ decode w = ⟨.poisoned, w.data, w.code, none, none⟩) ∨
    (w.mark = false ∧ (syndromeOf w).odd = true ∧ ∃ b, namedBit (syndromeOf w).s.toNat = some b ∧
      decode w = ⟨.corrected, restored w.data b, w.code, some (syndromeOf w), some b⟩) ∨
    (w.mark = false ∧ (syndromeOf w).odd = false ∧ (syndromeOf w).s = 0 ∧
      decode w = ⟨.clean, w.data, w.code, none, none⟩) ∨
    (w.mark = false ∧ ((syndromeOf w).odd = true ∧ namedBit (syndromeOf w).s.toNat = none ∨
      (syndromeOf w).odd = false ∧ (syndromeOf w).s ≠ 0) ∧
      decode w = ⟨.uncorrectable, w.data, w.code, some (syndromeOf w), none⟩) := by
  unfold decode
  cases hm : w.mark
  · cases ho : (syndromeOf w).odd
    · by_cases hs : (syndromeOf w).s = 0
      · simp [hs]
      · simpa [hs] using Classical.em _
    · cases hb : namedBit (syndromeOf w).s.toNat <;> simp
  · simp

/-- An UNCORRECTABLE decode names no bit. -/
theorem decode_uncorrectable (w : StoredWord) (h : (decode w).outcome = .uncorrectable) : (decode w).bit = none := by
  rcases decode_cases w with ⟨_, e⟩ | ⟨_, _, b, _, e⟩ | ⟨_, _, _, e⟩ | ⟨_, _, e⟩ <;> simp_all

/-- A POISONED decode carries no syndrome and names no bit. -/
theorem decode_poisoned (w : StoredWord) (h : (decode w).outcome = .poisoned) :
    (decode w).bit = none ∧ (decode w).syndrome = none := by
  rcases decode_cases w with ⟨_, e⟩ | ⟨_, _, b, _, e⟩ | ⟨_, _, _, e⟩ | ⟨_, _, e⟩ <;> simp_all

/-- A CLEAN decode carries the data as read. -/
theorem decode_clean (w : StoredWord) (h : (decode w).outcome = .clean) : (decode w).data = w.data := by
  rcases decode_cases w with ⟨_, e⟩ | ⟨_, _, b, _, e⟩ | ⟨_, _, _, e⟩ | ⟨_, _, e⟩ <;> simp_all

/-- The array operation that ends has read what the location holds. -/
theorem State.opened_read (s : State) (loc : Nat) (u : Upset) (h : s.mem.wf = true) :
    (s.opened loc u).mem.read loc = s.found loc u :=
  Memory.read_disturbed_same s.mem loc u h

/-- After a read the location holds what was found there, and every other location what it held. -/
theorem holds_disturbed (s : State) (loc : Nat) (u : Upset) (h : s.mem.wf = true) :
    Holds (s.mem.disturbed loc u) s.mem loc (s.found loc u) :=
  ⟨Memory.read_disturbed_same s.mem loc u h, fun _ hl => Memory.read_disturbed_other s.mem _ _ u hl.symm⟩

/-- After a read and a write the location holds the word written. -/
theorem holds_written (m : Memory) (loc : Nat) (u : Upset) (w : StoredWord) (h : m.wf = true) :
    Holds ((m.disturbed loc u).write loc w) m loc w := by
  refine ⟨Memory.read_write_same _ _ _ (Memory.wf_disturbed m loc u h), fun l hl => ?_⟩
  rw [Memory.read_write_other _ _ _ _ hl.symm, Memory.read_disturbed_other _ _ _ _ hl.symm]

/-- After a drain's writes both its locations hold the word written (R52). -/
theorem holdsBoth_written (m : Memory) (loc : Nat) (u : Upset) (dual : Option Nat) (w : StoredWord) (h : m.wf = true) :
    HoldsBoth (dual.elim ((m.disturbed loc u).write loc w) fun l => ((m.disturbed loc u).write loc w).write l w) m loc
      dual w := by
  obtain ⟨h1, h2⟩ := holds_written m loc u w h
  have hw := Memory.wf_write _ loc w (Memory.wf_disturbed m loc u h)
  cases dual with
  | none => exact ⟨h1, fun _ h => (Option.some_ne_none _ h.symm).elim, fun l hl _ => h2 l hl⟩
  | some d =>
    refine ⟨?_, ?_, fun l hl hd => ?_⟩
    · by_cases e : d = loc
      · subst e
        exact Memory.read_write_same _ _ _ hw
      · exact (Memory.read_write_other _ _ _ _ e).trans h1
    · rintro l ⟨⟩
      exact Memory.read_write_same _ _ _ hw
    · exact (Memory.read_write_other _ _ _ _ (by simpa using hd)).trans (h2 l hl)

end Sys2Proof.Machine
end

