-- ==== Sys2Proof/Laws/Operands.lean ====
section
/-! SUPPORT. Values per source and per slot: what a value reads after one has been set or all have been made. -/

namespace Sys2Proof.Machine

@[simp] theorem PerSource.get_make {α : Type} (f : FaultSource → α) (src : FaultSource) :
    (PerSource.make f).get src = f src := by
  cases src <;> rfl

@[simp] theorem PerSource.get_set_same {α : Type} (p : PerSource α) (src : FaultSource) (v : α) :
    (p.set src v).get src = v := by
  simp [PerSource.set]

theorem PerSource.get_set_other {α : Type} (p : PerSource α) (src k : FaultSource) (v : α) (h : k ≠ src) :
    (p.set src v).get k = p.get k := by
  simp [PerSource.set, h]

theorem PerSource.get_set {α : Type} (p : PerSource α) (src k : FaultSource) (v : α) :
    (p.set src v).get k = if k = src then v else p.get k := by
  simp [PerSource.set]

@[ext] theorem PerSource.ext_get {α : Type} (p q : PerSource α) (h : ∀ src, p.get src = q.get src) : p = q := by
  have h1 := h .readUncorrectable
  have h2 := h .writeMergeFailed
  have h3 := h .backgroundUncorrectable
  have h4 := h .recordOverflow
  have h5 := h .spareExhausted
  have h6 := h .migrationFailed
  have h7 := h .accessRefused
  have h8 := h .lockFault
  have h9 := h .corrected
  cases p
  cases q
  simp_all [PerSource.get]

/-- The nine sources. -/
theorem FaultSource.mem_all (src : FaultSource) : src ∈ FaultSource.all := by
  cases src <;> decide

@[simp] theorem PerSlot.get_make {α : Type} (f : Fin 8 → α) (n : Fin 8) : (PerSlot.make f).get n = f n := by
  match n with
  | 0 | 1 | 2 | 3 | 4 | 5 | 6 | 7 => rfl

@[simp] theorem PerSlot.get_set_same {α : Type} (p : PerSlot α) (n : Fin 8) (v : α) : (p.set n v).get n = v := by
  simp [PerSlot.set]

theorem PerSlot.get_set_other {α : Type} (p : PerSlot α) (n k : Fin 8) (v : α) (h : k ≠ n) :
    (p.set n v).get k = p.get k := by
  simp [PerSlot.set, h]

theorem PerSlot.get_set {α : Type} (p : PerSlot α) (n k : Fin 8) (v : α) :
    (p.set n v).get k = if k = n then v else p.get k := by
  simp [PerSlot.set]

/-- The eight slots. -/
theorem mem_allSlots (n : Fin 8) : n ∈ allSlots := by
  match n with
  | 0 | 1 | 2 | 3 | 4 | 5 | 6 | 7 => decide

/-- A slot found FREE is FREE, and one is found where one is FREE. -/
theorem freeSlot_some (map : PerSlot SpareEntry) (n : Fin 8) (h : freeSlot map = some n) : map.get n = .free := by
  simpa using List.find?_some h

theorem freeSlot_none (map : PerSlot SpareEntry) (h : freeSlot map = none) (n : Fin 8) : map.get n ≠ .free := by
  have := List.find?_eq_none.mp h n (mem_allSlots n)
  simpa using this

end Sys2Proof.Machine
end

