-- ==== Sys2Proof/Laws/Faults.lean ====
section
/-! SUPPORT. The Fault Unit: the demanded mode, what a refresh and an occurrence do, and that each keeps the unit
consistent (R149, R152 to R158). -/

namespace Sys2Proof.Machine

theorem DeviceMode.higher_rank (a b : DeviceMode) : (a.higher b).rank = max a.rank b.rank := by
  cases a <;> cases b <;> decide

theorem DeviceMode.higher_cases (a b : DeviceMode) : a.higher b = a ∨ a.higher b = b := by
  unfold DeviceMode.higher
  split
  · exact .inr rfl
  · exact .inl rfl

/-- The demanded mode is not below what any source demands (R155). -/
theorem FaultUnit.demand_le (fu : FaultUnit) (src : FaultSource) :
    (fu.sources.get src).demand.rank ≤ fu.demanded.rank := by
  simp only [FaultUnit.demanded, FaultSource.all, List.foldl, DeviceMode.higher_rank]
  cases src <;> simp only [PerSource.get] <;> omega

/-- The demanded mode is NORMAL or what some source demands (R155). -/
theorem FaultUnit.demanded_cases (fu : FaultUnit) :
    fu.demanded = .normal ∨ ∃ src, (fu.sources.get src).demand = fu.demanded := by
  have fold : ∀ (l : List FaultSource) (m : DeviceMode),
      l.foldl (fun m src => m.higher (fu.sources.get src).demand) m = m ∨
        ∃ src, (fu.sources.get src).demand = l.foldl (fun m src => m.higher (fu.sources.get src).demand) m := by
    intro l
    induction l with
    | nil => exact fun m => .inl rfl
    | cons a l ih =>
      intro m
      rcases ih (m.higher (fu.sources.get a).demand) with h | h
      · rcases m.higher_cases (fu.sources.get a).demand with e | e
        · exact .inl (h.trans e)
        · exact .inr ⟨a, (h.trans e).symm⟩
      · exact .inr h
  exact fold FaultSource.all .normal

/-- ALERT_N is asserted exactly where a source is SET at ALERT or above (R157). -/
theorem FaultUnit.alerting_iff (fu : FaultUnit) :
    fu.alerting = true ↔ ∃ src, (fu.sources.get src).set = true ∧ 2 ≤ (fu.sources.get src).effective.rank := by
  simp [FaultUnit.alerting, FaultRecord.alerts, FaultSource.mem_all]

/-- A refresh brings the mode up to the demanded level and gives ALERT_N its value (R155, R157). -/
theorem FaultUnit.refreshed_frame (fu : FaultUnit) :
    fu.refreshed.sources = fu.sources ∧ fu.refreshed.snapshot = fu.snapshot ∧
      fu.refreshed.mode = fu.mode.higher fu.demanded ∧ fu.refreshed.alert = fu.alerting := ⟨rfl, rfl, rfl, rfl⟩

/-- A refresh of consistent sources gives a consistent unit. -/
theorem FaultUnit.refreshed_ok (fu : FaultUnit) (configured : PerSource Reaction)
    (h : ∀ src, SourceOk (fu.sources.get src) (configured.get src)) : FaultsOk fu.refreshed configured := by
  refine ⟨fun src => ⟨h src, ?_⟩, fu.alerting_iff⟩
  show _ ≤ (fu.mode.higher fu.demanded).rank
  rw [DeviceMode.higher_rank]
  exact Nat.le_trans (fu.demand_le src) (Nat.le_max_right _ _)

theorem Reaction.raised_rank (r : Reaction) : r.raised.rank = min (r.rank + 1) 4 := by cases r <;> rfl

theorem Reaction.rank_eq_zero (r : Reaction) : r.rank = 0 ↔ r = .ignore := by cases r <;> simp [Reaction.rank]

/-- A recorded occurrence leaves a consistent source (R152, R153). -/
theorem FaultUnit.recorded_ok (r : FaultRecord) (configured : Reaction) (escalate : Bool) (h : SourceOk r configured)
    (hc : ¬ (configured = .ignore ∧ r.set = false)) : SourceOk (FaultUnit.recorded r configured escalate) configured := by
  obtain ⟨h1, h2, h3, h4, h5⟩ := h
  have hr := r.effective.raised_rank
  have hz := configured.rank_eq_zero
  have h4' : r.effective.rank ≤ 4 := by cases r.effective <;> decide
  refine ⟨?_, ?_, ?_, ?_, ?_⟩ <;> cases hs : r.set <;> cases escalate <;>
    simp_all [FaultUnit.recorded] <;> omega

/-- An occurrence keeps the Fault Unit consistent (R152). -/
theorem FaultUnit.occur_ok (fu : FaultUnit) (src : FaultSource) (configured : PerSource Reaction) (escalate : Bool)
    (h : FaultsOk fu configured) : FaultsOk (fu.occur src (configured.get src) escalate) configured := by
  unfold FaultUnit.occur
  split
  · exact h
  · rename_i hc
    refine FaultUnit.refreshed_ok _ _ fun k => ?_
    by_cases e : k = src
    · subst e
      rw [PerSource.get_set_same]
      exact FaultUnit.recorded_ok _ _ _ (h.1 k).1 hc
    · rw [PerSource.get_set_other _ _ _ _ e]
      exact (h.1 k).1

/-- An occurrence in the part keeps the Fault Unit consistent. -/
theorem State.occur_faultsOk (s : State) (src : FaultSource) (h : FaultsOk s.faults s.settings.reactions) :
    FaultsOk (s.occur src).faults (s.occur src).settings.reactions :=
  FaultUnit.occur_ok s.faults src s.settings.reactions _ h

end Sys2Proof.Machine
end

