-- ==== Sys2Proof/Laws/Grants.lean ====
section
/-! SUPPORT. What the ends of the array operations share: the array behind a scrub (R141), the head's result (R32, R35,
R55), a prefetched word whose entry is gone (R75); and the carry rule and the characters of the link (R163, R164). -/

namespace Sys2Proof.Machine

/-! ### The array behind a grant -/

/-- A scrub writes only a word that differs from what it has found. -/
theorem holds_scrubbed (s : State) (loc : Nat) (u : Upset) (w : StoredWord) (h : s.mem.wf = true) :
    Holds (if w = s.found loc u then s.mem.disturbed loc u else (s.mem.disturbed loc u).write loc w) s.mem loc w := by
  split
  · rename_i hw
    rw [hw]
    exact holds_disturbed s loc u h
  · exact holds_written s.mem loc u w h

/-! ### The read-ahead buffer -/

/-- A prefetched word whose entry is gone is not kept. -/
@[simp] theorem State.keepPrefetched_gone (s : State) (line : Nat) (slot : RaSlot) :
    s.keepPrefetched none line slot = s := rfl

/-! ### The head's result -/

/-- An awaited place is one nearer the head once the head has left. -/
theorem mem_headLeft (awaited : List Nat) (n : Nat) : n ∈ headLeft awaited ↔ n + 1 ∈ awaited := by
  simp only [headLeft, List.mem_map, List.mem_filter]
  constructor
  · rintro ⟨x, ⟨hx, h⟩, rfl⟩
    have : x ≠ 0 := by simpa using h
    rwa [Nat.sub_add_cancel (by omega)]
  · exact fun h => ⟨n + 1, ⟨h, by simp⟩, by simp⟩

/-! ### The link -/

/-- The accumulator after `n` lengths, from its own range. -/
theorem carries_acc (base fraction : Nat) (hf : fraction ≤ 7) : ∀ n acc, acc ≤ 7 →
    (carries base fraction n acc).2 = (acc + fraction * n) % 8
  | 0, acc, h => by
    simp only [carries, Nat.mul_zero, Nat.add_zero]
    omega
  | n + 1, acc, h => by
    have hc : (carry base fraction acc).2 = (acc + fraction) % 8 := by
      unfold carry
      split <;> simp only <;> omega
    simp only [carries, hc, carries_acc base fraction hf n ((acc + fraction) % 8) (by omega), Nat.mul_succ]
    omega

/-- The accumulator after `bits` bit times counted from 0 (R164). -/
theorem accAfter_eq (t : Timing) (bits : Nat) (h : t.fraction ≤ 7) : accAfter t bits = t.fraction * bits % 8 := by
  simpa [accAfter] using carries_acc t.divisor t.fraction h bits 0 (by omega)

/-- A sent character is eleven bits (R163). -/
@[simp] theorem sentBits_length (b : Byte) : (sentBits b).length = 11 := by simp [sentBits]

/-- The data bits of a sent character, least significant first (R163). -/
theorem sentBits_data (b : Byte) (k : Nat) (h : k < 8) :
    (sentBits b)[k + 1]? = some (if b.getLsbD k then .released else .low) := by
  interval_cases k <;> rfl

end Sys2Proof.Machine
end

