-- ==== Sys2Proof/Laws/Migration.lean ====
section
/-! SUPPORT. The release of lines where no slot is FREE (R118): one line, and that as many rounds as there are
PROMOTE_PENDING records are enough. -/

namespace Sys2Proof.Machine

/-- The release of one line: its records return to OPEN, with one SPARE_EXHAUSTED (R118). -/
def State.released (s : State) (line : Nat) : State :=
  { s with records := reopenRecords line s.records }.occur .spareExhausted

/-- How many records are PROMOTE_PENDING. -/
def pendingCount (rs : List ErrRecord) : Nat := rs.countP fun r => r.state = .promotePending

@[simp] theorem State.released_records (s : State) (line : Nat) :
    (s.released line).records = reopenRecords line s.records := rfl

/-- A line that is found has a PROMOTE_PENDING record. -/
theorem State.pendingLine_some (s : State) (line : Nat) (h : s.pendingLine = some line) :
    ∃ r ∈ s.records, r.state = .promotePending ∧ r.address / 8 = line := by
  unfold State.pendingLine at h
  obtain ⟨r, hr, rfl⟩ := Option.map_eq_some_iff.mp h
  have := List.find?_some hr
  simp only [Bool.and_eq_true, decide_eq_true_eq] at this
  exact ⟨r, List.mem_of_find?_eq_some hr, this.1, rfl⟩

/-- A release makes no record PROMOTE_PENDING. -/
theorem pendingCount_reopen_le (line : Nat) (rs : List ErrRecord) :
    pendingCount (reopenRecords line rs) ≤ pendingCount rs := by
  unfold pendingCount reopenRecords restated
  rw [List.countP_map]
  refine List.countP_mono_left fun r _ h => ?_
  simp only [Function.comp_apply, decide_eq_true_eq] at h ⊢
  split at h
  · cases h
  · exact h

/-- The release of a line with a PROMOTE_PENDING record leaves fewer of them. -/
theorem pendingCount_reopen_lt (line : Nat) (rs : List ErrRecord)
    (h : ∃ r ∈ rs, r.state = .promotePending ∧ r.address / 8 = line) :
    pendingCount (reopenRecords line rs) < pendingCount rs := by
  induction rs with
  | nil => simp at h
  | cons r rs ih =>
    have hle := pendingCount_reopen_le line rs
    have cons (x : ErrRecord) (xs : List ErrRecord) :
        pendingCount (x :: xs) = pendingCount xs + if x.state = .promotePending then 1 else 0 := by
      simp [pendingCount, List.countP_cons]
    have step : reopenRecords line (r :: rs) = (if lineOf r.address = line ∧
        (r.state = .promotePending || r.state = .migrating) = true then { r with state := .opened } else r) ::
          reopenRecords line rs := rfl
    rw [step, cons, cons]
    obtain ⟨q, hq, hs, hl⟩ := h
    rcases List.mem_cons.mp hq with rfl | hq
    · have hr : lineOf q.address = line ∧ (q.state = .promotePending || q.state = .migrating) = true :=
        ⟨hl, by simp [hs]⟩
      have opened : ({ q with state := .opened } : ErrRecord).state ≠ .promotePending := by simp
      rw [if_pos hr, if_neg opened, if_pos hs]
      omega
    · have := ih ⟨q, hq, hs, hl⟩
      by_cases hr : lineOf r.address = line ∧ (r.state = .promotePending || r.state = .migrating) = true
      · rw [if_pos hr, if_neg (by simp)]
        omega
      · rw [if_neg hr]
        omega

/-- Rounds beyond the number of PROMOTE_PENDING records change nothing. -/
theorem State.releaseLines_enough (n : Nat) : ∀ (s : State) (m : Nat), pendingCount s.records ≤ n →
    pendingCount s.records ≤ m → State.releaseLines n s = State.releaseLines m s := by
  have none_pending (s : State) (h : pendingCount s.records = 0) : s.pendingLine = none := by
    cases hp : s.pendingLine with
    | none => rfl
    | some line =>
      have := pendingCount_reopen_lt line s.records (s.pendingLine_some line hp)
      omega
  have done (s : State) (m : Nat) (h : s.pendingLine = none) : State.releaseLines m s = s := by
    cases m <;> simp [State.releaseLines, h]
  induction n with
  | zero =>
    intro s m h _
    exact (done s m (none_pending s (Nat.le_zero.mp h))).symm
  | succ n ih =>
    intro s m hn hm
    cases hp : s.pendingLine with
    | none => rw [done s _ hp, done s _ hp]
    | some line =>
      have hlt := pendingCount_reopen_lt line s.records (s.pendingLine_some line hp)
      cases m with
      | zero => omega
      | succ m =>
        simp only [State.releaseLines, hp]
        exact ih (s.released line) m (by simp; omega) (by simp; omega)

/-- One round of a release: with a line to be released, all of them are the release of it and then of the others. -/
theorem State.releaseLines_step (s : State) (line : Nat) (h : s.pendingLine = some line) :
    State.releaseLines s.records.length s = State.releaseLines s.records.length (s.released line) := by
  have hlt := pendingCount_reopen_lt line s.records (s.pendingLine_some line h)
  have hle : pendingCount s.records ≤ s.records.length := List.countP_le_length
  cases hl : s.records.length with
  | zero => omega
  | succ n =>
    rw [State.releaseLines, h]
    exact State.releaseLines_enough n (s.released line) (n + 1) (by simp; omega) (by simp; omega)

end Sys2Proof.Machine
end

