-- ==== Sys2Proof/Laws/ReadAhead.lean ====
section
/-! SUPPORT. The words of a prefetch filled above the watermark (R73): word by word, and that sixteen are all that there
can be. -/

namespace Sys2Proof.Machine

/-- A word of the served line that lies above the watermark is filled, and the next one is looked at. -/
theorem State.zeroFill_unfilled (s : State) (n a : Nat) (i : Fin 2) (hp : s.prefetchWord = some (i, a))
    (hu : s.unfilled (s.translate a).1 = true) : s.zeroFill (n + 1) = (s.fillSlot i (.good 0)).zeroFill n := by
  simp [State.zeroFill, hp, hu]

/-- Where the next word lies below the watermark nothing is filled. -/
theorem State.zeroFill_filled (s : State) (n a : Nat) (i : Fin 2) (hp : s.prefetchWord = some (i, a))
    (hu : s.unfilled (s.translate a).1 = false) : s.zeroFill n = s := by
  cases n <;> simp [State.zeroFill, hp, hu]

/-- How many words a FILLING entry can still take, at least one. -/
def RaEntry.wordsLeft : RaEntry → Nat
  | .filling _ _ slots => 8 - min slots.length 7
  | _ => 0

/-- A filled word is one word less. -/
theorem RaEntry.wordsLeft_filled (e : RaEntry) (slot : RaSlot) (h : 0 < e.wordsLeft) :
    (e.filled slot).wordsLeft + 1 = e.wordsLeft := by
  cases e with
  | filling line early slots =>
    unfold RaEntry.filled
    dsimp only
    split
    · simp only [RaEntry.wordsLeft, List.length_append, List.length_singleton]
      omega
    · simp only [RaEntry.wordsLeft]
      omega
  | empty => simp [RaEntry.wordsLeft] at h
  | valid => simp [RaEntry.wordsLeft] at h

/-- A line has eight words. -/
theorem RaEntry.wordsLeft_le (e : RaEntry) : e.wordsLeft ≤ 8 := by
  cases e <;> simp [RaEntry.wordsLeft]

/-- How many words the buffer can still take. -/
def ReadAhead.wordsLeft (ra : ReadAhead) : Nat := ra.e0.wordsLeft + ra.e1.wordsLeft

/-- The fill of the next word is one word less. -/
theorem State.wordsLeft_fillSlot (s : State) (i : Fin 2) (a : Nat) (slot : RaSlot) (h : s.prefetchWord = some (i, a)) :
    (s.fillSlot i slot).readAhead.wordsLeft + 1 = s.readAhead.wordsLeft := by
  have hp : 0 < (s.readAhead.get i).wordsLeft := by
    unfold State.prefetchWord at h
    split at h
    · cases h
    · split at h
      · rename_i j _ line _ slots hj
        simp only [Option.some.injEq, Prod.mk.injEq] at h
        obtain ⟨rfl, _⟩ := h
        rw [hj]
        simp only [RaEntry.wordsLeft]
        omega
      · cases h
  have key := RaEntry.wordsLeft_filled _ slot hp
  rcases (by omega : i = 0 ∨ i = 1) with rfl | rfl
  · simp [ReadAhead.get, State.fillSlot, ReadAhead.set, ReadAhead.wordsLeft] at key ⊢
    omega
  · simp [ReadAhead.get, State.fillSlot, ReadAhead.set, ReadAhead.wordsLeft] at key ⊢
    omega

/-- As many words as are left are all that can be filled. -/
theorem State.zeroFill_enough (n k : Nat) : ∀ (s : State), s.readAhead.wordsLeft ≤ n →
    (s.zeroFill n).zeroFill k = s.zeroFill n := by
  induction n with
  | zero =>
    intro s h
    cases k with
    | zero => rfl
    | succ k =>
      simp only [State.zeroFill]
      split
      · rfl
      · rename_i i a hp
        have := s.wordsLeft_fillSlot i a (.good 0) hp
        omega
  | succ n ih =>
    intro s h
    cases hp : s.prefetchWord with
    | none =>
      have : ∀ m, s.zeroFill m = s := by intro m; cases m <;> simp [State.zeroFill, hp]
      rw [this, this]
    | some p =>
      obtain ⟨i, a⟩ := p
      by_cases hu : s.unfilled (s.translate a).1 = true
      · rw [State.zeroFill_unfilled s n a i hp hu]
        exact ih _ (by have := s.wordsLeft_fillSlot i a (.good 0) hp; omega)
      · have hu' : s.unfilled (s.translate a).1 = false := by simpa using hu
        rw [State.zeroFill_filled s (n+1) a i hp hu', State.zeroFill_filled s k a i hp hu']

/-- What lies above the watermark has then been filled: a second fill finds nothing. -/
theorem State.zeroFill_done (s : State) (k : Nat) : (s.zeroFill 16).zeroFill k = s.zeroFill 16 :=
  s.zeroFill_enough 16 k (by
    have h0 := s.readAhead.e0.wordsLeft_le
    have h1 := s.readAhead.e1.wordsLeft_le
    unfold ReadAhead.wordsLeft
    omega)

/-- Words filled in an event are not filled again at its end. -/
theorem State.settle_zeroFill (s : State) : (s.zeroFill 16).settle = s.settle := by
  unfold State.settle
  rw [State.zeroFill_done]
end Sys2Proof.Machine
end

