-- ==== Sys2Proof/Laws/Records.lean ====
section
/-! SUPPORT. The Error Record Table: where an arrival is placed, and that the table stays well formed (R91 to R101). -/

namespace Sys2Proof.Machine

/-- An update or a reset in place changes a record's word address in no case (R95). -/
@[simp] theorem touched_address (a : Arrival) (r : ErrRecord) : (touched a r).address = r.address := by
  unfold touched
  split
  · rename_i h
    split
    · rfl
    · exact h.symm
  · rfl

/-- An eviction removes one record and keeps the others in their order (R100). -/
theorem evictOldest_sublist (rs : List ErrRecord) : ∀ t, evictOldest rs = some t →
    t.Sublist rs ∧ t.length + 1 = rs.length := by
  induction rs with
  | nil => intro t h; cases h
  | cons r rs ih =>
    intro t h
    rw [evictOldest] at h
    split at h
    · cases h
      exact ⟨List.sublist_cons_self _ _, rfl⟩
    · cases he : evictOldest rs with
      | none => rw [he] at h; cases h
      | some u =>
        rw [he] at h
        cases h
        obtain ⟨h1, h2⟩ := ih u he
        exact ⟨h1.cons_cons r, by simp [← h2]⟩

/-- Only an evictable record is evicted (R100). -/
theorem evictOldest_keeps (rs : List ErrRecord) : ∀ t, evictOldest rs = some t →
    ∀ r ∈ rs, r.evictable = false → r ∈ t := by
  induction rs with
  | nil => intro t h; cases h
  | cons x rs ih =>
    intro t h r hr he
    rw [evictOldest] at h
    split at h
    · rename_i hx
      cases h
      rcases List.mem_cons.mp hr with rfl | hr
      · rw [he] at hx; cases hx
      · exact hr
    · cases hn : evictOldest rs with
      | none => rw [hn] at h; cases h
      | some u =>
        rw [hn] at h
        cases h
        rcases List.mem_cons.mp hr with rfl | hr
        · exact List.mem_cons_self
        · exact List.mem_cons_of_mem _ (ih u hn r hr he)

/-- A pinned record is not evictable (R100, R102). -/
theorem pinned_not_evictable (r : ErrRecord) (h : r.state = .promotePending ∨ r.state = .migrating) :
    r.evictable = false := by
  rcases h with h | h <;> simp [ErrRecord.evictable, h]

/-- The placing of an arrival keeps the table well formed (R91, R92). -/
theorem placed_ok (rs t : List ErrRecord) (a : Arrival) (h : RecordsOk rs) (hp : placed rs a = some t) : RecordsOk t := by
  obtain ⟨h1, h2, h3⟩ := h
  unfold placed at hp
  split at hp
  · cases hp
    refine ⟨by simpa using h1, ?_, ?_⟩
    · rw [List.pairwise_map]
      simpa using h2
    · intro r hr
      obtain ⟨q, hq, rfl⟩ := List.mem_map.mp hr
      have := h3 q hq
      unfold touched
      split
      · split
        · simp only [ErrRecord.updated]
          omega
        · simp [ErrRecord.fresh]
      · exact this
  · rename_i hn
    have hne : ∀ r ∈ rs, r.address ≠ a.address := by simpa using hn
    split at hp
    · rename_i hl
      cases hp
      refine ⟨by simp; omega, ?_, ?_⟩
      · rw [List.pairwise_append]
        refine ⟨h2, List.pairwise_singleton _ _, fun r hr q hq => ?_⟩
        rw [List.mem_singleton.mp hq]
        exact hne r hr
      · intro r hr
        rcases List.mem_append.mp hr with hr | hr
        · exact h3 r hr
        · rw [List.mem_singleton.mp hr]
          simp [ErrRecord.fresh]
    · cases he : evictOldest rs with
      | none => rw [he] at hp; cases hp
      | some u =>
        rw [he] at hp
        cases hp
        obtain ⟨hs, hl⟩ := evictOldest_sublist rs u he
        refine ⟨by simp; omega, ?_, ?_⟩
        · rw [List.pairwise_append]
          refine ⟨h2.sublist hs, List.pairwise_singleton _ _, fun r hr q hq => ?_⟩
          rw [List.mem_singleton.mp hq]
          exact hne r (hs.subset hr)
        · intro r hr
          rcases List.mem_append.mp hr with hr | hr
          · exact h3 r (hs.subset hr)
          · rw [List.mem_singleton.mp hr]
            simp [ErrRecord.fresh]

/-- A change of states keeps the table well formed. -/
theorem restated_ok (rs : List ErrRecord) (f : ErrRecord → ErrRecord)
    (hf : ∀ r, (f r).address = r.address ∧ (f r).count = r.count) (h : RecordsOk rs) : RecordsOk (rs.map f) := by
  obtain ⟨h1, h2, h3⟩ := h
  refine ⟨by simpa using h1, ?_, ?_⟩
  · rw [List.pairwise_map]
    simpa [hf] using h2
  · intro r hr
    obtain ⟨q, hq, rfl⟩ := List.mem_map.mp hr
    simpa [hf] using h3 q hq

/-- A removal of records keeps the table well formed. -/
theorem filtered_ok (rs : List ErrRecord) (p : ErrRecord → Bool) (h : RecordsOk rs) : RecordsOk (rs.filter p) := by
  obtain ⟨h1, h2, h3⟩ := h
  exact ⟨Nat.le_trans (List.length_filter_le _ _) h1, h2.filter p, fun r hr => h3 r (List.mem_of_mem_filter hr)⟩

/-- The examination changes the table by PROMOTE_PENDING at most (R103 to R105). -/
theorem State.examine_records (s : State) (a : Nat) :
    (s.examine a).records = s.records ∨ (s.examine a).records = promoted a s.records := by
  unfold State.examine
  split
  · exact .inl rfl
  · split
    · split
      · exact .inr rfl
      · exact .inl rfl
    · exact .inl rfl

/-- An arrival keeps the table well formed. -/
theorem State.arrive_recordsOk (s : State) (a : Arrival) (h : RecordsOk s.records) : RecordsOk (s.arrive a).records := by
  unfold State.arrive
  split
  · exact h
  · rename_i t hp
    have ht := placed_ok _ _ _ h hp
    rcases State.examine_records { s with records := t } a.address with e | e <;> rw [e]
    · exact ht
    · refine restated_ok _ _ (fun r => ?_) ht
      split <;> exact ⟨rfl, rfl⟩

/-- A delivery report keeps the table well formed (R107). -/
theorem State.deliveryReport_recordsOk (s : State) (a : Nat) (kind : Detected) (y : Option Syndrome) (k : Location)
    (answer : Repair) (h : RecordsOk s.records) : RecordsOk (s.deliveryReport a kind y k answer).records := by
  unfold State.deliveryReport
  split
  · refine restated_ok _ _ (fun r => ?_) h
    split <;> exact ⟨rfl, rfl⟩
  · exact s.arrive_recordsOk _ h

end Sys2Proof.Machine
end

