-- ==== Sys2Proof/Tests/Slice0.lean ====
section
/-! SUPPORT. Tests: each check of WellFormed refuses an ill-formed term, worked examples of the spec, one or two small
facts for each command, and for each statement a state and operands that meet its hypotheses. -/

namespace Sys2Proof.Machine.Tests

/-! ### Helpers -/

/-- The part with the fill DONE, the array free and the receiver idle. -/
def rdy : State :=
  { State.reset with
    mem := ⟨[], 65536, 0⟩, fill := ⟨false, 65536, false⟩, grant := none,
    link := { Link.initial with receiver := .idle } }

/-- The state a command leaves. -/
def after (c : Instr) (s : State) : State :=
  match exec c s with
  | .next t => t
  | _ => s

/-- `rdy` with an operation in progress. -/
def on (op : GrantOp) : State := { rdy with grant := some ⟨op, false⟩ }

/-- `rdy` with an operation in progress that a system reset has left to finish. -/
def orphan (op : GrantOp) : State := { rdy with grant := some ⟨op, true⟩, port := .reset, resetInProgress := true }

/-- `rdy` with a command handed to the Command Unit. -/
def doing (c : SvcCommand) : State :=
  { rdy with executing := some ⟨c, false, false, false⟩, link := { rdy.link with parser := .execute } }

/-- An OPEN record and a PROMOTE_PENDING one. -/
def recs : List ErrRecord :=
  [⟨8, .original, .corrected, some (.data 0), some ⟨3, true⟩, 1, .read, .read, .queued, false, .opened⟩,
    ⟨16, .original, .uncorrectable, none, none, 2, .scrub, .scrub, .none, true, .promotePending⟩]

/-- A full-lane write entry, a partial one and a POISON entry. -/
def full (a : Nat) (d : Word) : Entry := ⟨.busWrite, a, d, .full, false, .waiting⟩
def part (a : Nat) : Entry := ⟨.busWrite, a, 0x11, 1, true, .waiting⟩
def poison (a : Nat) : Entry := ⟨.poison, a, 0, .full, false, .waiting⟩

/-- One bit, two bits, and the mark changed. -/
def one : Upset := ⟨1, 0, false⟩
def two : Upset := ⟨3, 0, false⟩
def mark : Upset := ⟨0, 0, true⟩

/-- A migration of line 1 into slot 0, at cursor `c`. -/
def copying (c : Nat) (step : CopyStep) (held : Option StoredWord) : State :=
  { rdy with
    spareMap := rdy.spareMap.set 0 (.copying 1 c .promotion none), migration := some ⟨0, .original, step, held⟩ }

/-- The scrub SWEEPING its last line of a block. -/
def sweeping : State := { rdy with scrub := ⟨.running .single (.sweeping 1), 0, 7, 0, 0, 0⟩ }

/-- A frame for RELEASE_MODE whose checksum is the next item. -/
def frameAtEnd : State :=
  { rdy with
    link := { rdy.link with
      parser := .collect, frameTimer := some 0, frame := ⟨false, 5, 0, [], 0, .checksum, false⟩,
      fifo := [.character 0xFB false false] } }

/-! ### Well-formed commands -/

theorem test_read_of_no_beat_is_ill_formed : (Instr.readRequest 0 0 false).wellFormed = false := by decide
theorem test_read_of_nine_beats_is_ill_formed : (Instr.readRequest 0 9 false).wellFormed = false := by decide
theorem test_write_of_no_beat_is_ill_formed : (Instr.writeRequest 0 [] false).wellFormed = false := by decide
theorem test_write_of_nine_beats_is_ill_formed :
    (Instr.writeRequest 0 (List.replicate 9 ⟨0, .full⟩) false).wellFormed = false := by decide
theorem test_locked_read_of_no_beat_is_ill_formed : (Instr.lockedReadRequest 0 0 false).wellFormed = false := by decide
theorem test_locked_read_of_nine_beats_is_ill_formed : (Instr.lockedReadRequest 0 9 false).wellFormed = false := by
  decide
theorem test_locked_write_of_no_beat_is_ill_formed : (Instr.lockedWriteRequest 0 [] false).wellFormed = false := by
  decide
theorem test_locked_write_of_nine_beats_is_ill_formed :
    (Instr.lockedWriteRequest 0 (List.replicate 9 ⟨0, .full⟩) false).wellFormed = false := by decide
theorem test_break_after_no_character_is_ill_formed : (Instr.breakReceived 0).wellFormed = false := by decide
theorem test_set_setting_of_a_reaction_is_ill_formed : (Instr.setSetting 0x21 0).wellFormed = false := by decide
theorem test_ill_formed_read_changes_nothing : after (.readRequest 0 0 false) rdy = rdy := by decide +kernel
theorem test_well_formed :
    ([.readRequest 0 1 false, .readRequest 0 8 true, .writeRequest 0 [⟨0, 0⟩] false, .breakReceived 1,
      .setSetting 0x20 0, .setSetting 0x2A 0] : List Instr).all Instr.wellFormed = true := by decide

/-! ### Worked examples -/

theorem test_check_codes :
    [0x00000000, 0x00000001, 0xFFFFFFFF, 0x12345678, 0x12BB56DD].map checkCode = [0x00, 0x43, 0x18, 0x6D, 0x33] := by
  decide +kernel
theorem test_position_of_each_data_bit : dataPositions.length = 32 ∧ dataPositions.Nodup := by decide
theorem test_no_row_gives_bits : decodeTableWord 32 0 = none := rfl
theorem test_withFetchWord : rdy.withFetchWord 8 0 = rdy := rfl
theorem test_reset_is_power_on : (State.reset.poweredOn resetStraps true).settle.grant = State.reset.grant := by
  decide +kernel
theorem test_step_idles_on_an_empty_queue : step State.reset = .next State.reset := rfl
theorem test_response_of_no_payload : response .busy [] true = [0x85, 0x00, 0x7B] := by decide
theorem test_pacer : carries 10 3 8 0 = (83, 0) := by decide
theorem test_record_bytes : (⟨8, .original, .corrected, some (.data 0), some ⟨3, true⟩, 1, .read, .read, .queued, false,
    .opened⟩ : ErrRecord).bytes 2 = [8, 0, 0, 0, 1, 0, 0x43, 1, 1, 1, 1, 0, 0, 2] := by decide

/-! ### Steps and stored words -/

theorem test_hyps_StepRunsFrontCommand :
    ({ rdy with pending := [.tick] } : State).pending = .tick :: [] ∧ rdy.pending = [] := ⟨rfl, rfl⟩

theorem test_hyps_PoisonMarkDecidesDecode :
    (⟨0, 0, true⟩ : StoredWord).mark = true ∧ (encoded 7).mark = false := ⟨rfl, rfl⟩

/-- One stored word for each row of R11, at the ends of the row's range of s. -/
theorem test_hyps_ClassificationOfErrors :
    syndromeOf (encoded 5) = ⟨0, false⟩ ∧ syndromeOf ⟨0, 0x40, false⟩ = ⟨0, true⟩ ∧
    syndromeOf ⟨1, 0, false⟩ = ⟨3, true⟩ ∧ syndromeOf ⟨0x80000000, 0, false⟩ = ⟨38, true⟩ ∧
    syndromeOf ⟨0, 1, false⟩ = ⟨1, true⟩ ∧ syndromeOf ⟨0, 0x20, false⟩ = ⟨32, true⟩ ∧
    syndromeOf ⟨0, 0x41, false⟩ = ⟨1, false⟩ ∧ syndromeOf ⟨0x02000000, 0x20, false⟩ = ⟨63, false⟩ ∧
    syndromeOf ⟨0x80000000, 0x41, false⟩ = ⟨39, true⟩ ∧ syndromeOf ⟨0x02000000, 0x60, false⟩ = ⟨63, true⟩ ∧
    (0 : Fin 39) ≠ 38 := by decide +kernel

/-! ### The upstream port -/

theorem test_hyps_RequestHeldOrRefused :
    ({ rdy with port := .reset } : State).port ≠ .ready ∧ rdy.held = none ∧ Presentable rdy ∧
    ({ rdy with held := some (readOf 0 1 false false) } : State).held = some (readOf 0 1 false false) ∧
    readOf 0 1 false false ≠ readOf 0 2 false false ∧
    LockAdmits { rdy with lock := some ⟨0, .held, some 1, false⟩ } (writeOf 0 [⟨0, .full⟩] true false) ∧
    requestOf (.readRequest 0 1 false) = some (readOf 0 1 false false) ∧
    (Instr.writeRequest 0 [⟨0, .full⟩] false).wellFormed = true ∧
    ¬ ModeAdmits { rdy with faults := { rdy.faults with mode := .contained } } (writeOf 0 [⟨0, .full⟩] false false) ∧
    ¬ ModeAdmits { rdy with faults := { rdy.faults with mode := .halted } } (readOf 0 1 false false) ∧
    ModeAdmits rdy (readOf 0 2 true false) ∧ (readOf 0 2 true false).count ≠ 1 ∧
    ModeAdmits { rdy with lock := some ⟨0, .held, some 1, false⟩ } (readOf 0 1 true false) ∧
    ModeAdmits rdy (writeOf 0 [⟨0, .full⟩] true false) ∧ rdy.lock = none ∧
    ¬ RangeAdmits rdy (readOf 65471 2 false false) ∧ LockAdmits rdy (readOf 65471 2 false false) ∧
    ¬ GuardAdmits { rdy with settings := { rdy.settings with guardLo := 1 } } (writeOf 1023 [⟨0, 0⟩] false false) := by
  decide +kernel

theorem test_held_request_is_presented_again :
    let s : State := { rdy with held := some (readOf 65472 1 false false) }
    (after (.readRequest 65472 1 false) s).held = none ∧ (after (.readRequest 65472 1 false) s).upSent = [.beatError] ∧
    after (.readRequest 65471 1 false) s = s := by decide +kernel
theorem test_read_beyond_range_is_refused :
    (after (.readRequest 65471 2 false) rdy).upSent = [.beatError] ∧
    (after (.readRequest 65471 2 false) rdy).faults.alert = true := by decide +kernel

/-- A state for each case of a plain READ. -/
theorem test_hyps_PlainReadServed :
    (Instr.readRequest 7 1 false).wellFormed = true ∧ Presentable rdy ∧ Admitted rdy (readOf 7 1 false false) ∧
    Admitted { rdy with settings := { rdy.settings with rangePolicy := .quiet } } (readOf 65472 8 false false) ∧
    newestEntry [full 7 5, full 7 6] 7 = some (full 7 6) ∧ newestEntry [poison 7] 7 = some (poison 7) ∧
    newestEntry [part 7] 7 = some (part 7) ∧ newestEntry rdy.queue 7 = none ∧
    (({ rdy with readAhead := ⟨.valid 0 false (List.replicate 8 (.good 9)), .empty⟩ } : State).touchLine
      7).readAhead.entryFor 0 = .valid 0 false (List.replicate 8 (.good 9)) ∧
    (({ rdy with readAhead := ⟨.empty, .filling 0 false []⟩ } : State).touchLine 7).readAhead.entryFor 0 =
      .filling 0 false [] ∧
    (rdy.touchLine 7).readAhead.entryFor 0 = .empty ∧ (0 < 1 ∧ 7 < rdy.straps.visible) ∧
    (State.reset.fill.filling = true ∧ State.reset.fill.watermark ≤ (State.reset.translate 7).1) := by
  decide +kernel

theorem test_read_forwards_the_newest_entry :
    (after (.readRequest 7 2 false) { rdy with queue := [full 7 5, full 8 6] }).upSent = [.beatOk 5, .beatOk 6] := by
  decide +kernel
theorem test_read_of_an_unfilled_word_is_zero : (after (.readRequest 7 1 false) State.reset).upSent = [.beatOk 0] := by
  decide +kernel

theorem test_hyps_PrefetchStart :
    let s : State := { rdy with settings := { rdy.settings with readAhead := true } }
    s.settings.readAhead = true ∧ 0 / 8 + 1 < s.straps.visible / 8 ∧ s.readAhead.e0.line? ≠ some 1 ∧
    s.readAhead.e1.line? ≠ some 1 ∧ (∀ e ∈ s.queue, e.kind = .busWrite ∨ e.kind = .lockedWrite → e.address / 8 ≠ 1) ∧
    s.fill.filling = false ∧
    (∀ n, s.spareMap.get n = .free) ∧ (s.touchLine 0).readAhead = ⟨.filling 1 false [], .empty⟩ := by
  decide +kernel

/-- Both entries taken, entry 1 the one started earlier, and a PREFETCH grant in progress for it or for the other. -/
def evicting (i : Fin 2) : State :=
  { on (.prefetch (some i) 24 24 .original) with
    settings := { rdy.settings with readAhead := true }, readAhead := ⟨.valid 4 false [], .filling 3 true []⟩ }

theorem test_hyps_PrefetchStart_grant :
    ((evicting 1).readAhead.e0 ≠ .empty ∧ (evicting 1).readAhead.e1 ≠ .empty ∧
      (evicting 1).readAhead.e0.startedEarlier = false) ∧
    (evicting 1).grant = some ⟨.prefetch (some 1) 24 24 .original, false⟩ ∧
    (∀ x loc k o, (evicting 0).grant ≠ some ⟨.prefetch (some 1) x loc k, o⟩) ∧
    ((evicting 1).touchLine 0).grant = some ⟨.prefetch none 24 24 .original, false⟩ ∧
    ((evicting 1).touchLine 0).readAhead = ⟨.valid 4 true [], .filling 1 false []⟩ ∧
    ((evicting 0).touchLine 0).grant = (evicting 0).grant := by
  refine ⟨by decide +kernel, rfl, fun x loc k o h => ?_, by decide +kernel, by decide +kernel, by decide +kernel⟩
  injection h with h
  injection h with h
  injection h with h
  exact absurd h (by decide)
theorem test_prefetch_started_during_the_fill_is_zero :
    let s : State := { State.reset with settings := { rdy.settings with readAhead := true } }
    (s.touchLine 0).readAhead.e0 = .valid 1 false (List.replicate 8 (.good 0)) := by decide +kernel

theorem test_hyps_PrefetchStart_zero :
    let s : State := { State.reset with readAhead := ⟨.filling 1 false [.good 0], .empty⟩ }
    s.readAhead.served = some 0 ∧ s.readAhead.get 0 = .filling 1 false [.good 0] ∧ s.fill.filling = true ∧
    (∀ k, 1 ≤ k → k < 8 → s.fill.watermark ≤ (s.translate (8 * 1 + k)).1) ∧
    s.settle.readAhead.e0 = .valid 1 false (List.replicate 8 (.good 0)) :=
  ⟨rfl, rfl, rfl, fun _ _ _ => Nat.zero_le _, by decide +kernel⟩

theorem test_hyps_PlainWriteTaken :
    (Instr.writeRequest 7 [⟨5, .full⟩] false).wellFormed = true ∧ Presentable rdy ∧
    Admitted rdy (writeOf 7 [⟨5, .full⟩] false false) ∧
    queuedBeats (writeOf 7 [⟨5, .full⟩] false false) none = [(7, ⟨5, .full⟩)] ∧
    queuedBeats (writeOf 7 [⟨5, 0⟩] false false) none = [] ∧ rdy.settings.posting = .posted ∧
    ({ rdy with settings := { rdy.settings with posting := .through } } : State).settings.posting = .through ∧
    8 - (List.replicate 8 (full 0 0)).length < 1 := by decide +kernel

theorem test_write_is_posted :
    (after (.writeRequest 7 [⟨5, .full⟩] false) rdy).upSent = [.writeOk] ∧
    (after (.writeRequest 7 [⟨5, .full⟩] false) rdy).grant = some ⟨.drain 7 .original none, false⟩ := by decide +kernel

theorem test_hyps_BeatInsertion :
    ([full 7 5][0]? = some (full 7 5) ∧ (full 7 5).stage = .waiting) ∧ (∀ e ∈ rdy.queue, e.address ≠ 7) ∧
    (poison 7).kind = .poison ∧ (1 : Lanes) ≠ .full ∧
    [full 7 5, poison 8].Pairwise (fun e f => clash e f = false) ∧
    [poison 7].find? (fun e => e.address = 7 && e.stage = .waiting) = some (poison 7) ∧
    (evicting 1).grant = some ⟨.prefetch (some 1) 24 24 .original, false⟩ ∧
    ((evicting 1).readAhead.get 1).line? = some (24 / 8) ∧ ((evicting 1).readAhead.get 1).line? ≠ some (32 / 8) ∧
    ((evicting 1).insertBeat false false 24 ⟨5, 1⟩).grant = some ⟨.prefetch none 24 24 .original, false⟩ ∧
    ((evicting 1).insertBeat false false 32 ⟨5, 1⟩).grant = (evicting 1).grant := by
  decide +kernel

theorem test_partial_beat_on_poison_is_lost :
    (({ rdy with queue := [poison 7] } : State).insertBeat false false 7 ⟨5, 1⟩).faults.sources.writeMergeFailed.set =
      true := by decide +kernel

/-- A write waiting for space, and one whose awaited entries have drained. -/
def waitingWrite (posting : PostingMode) (q : List Entry) : State :=
  { rdy with
    port := .writeSpaceWait, queue := q,
    txn := some ⟨writeOf 7 [⟨5, .full⟩] false false, none, .write posting [] false⟩ }
def drained (locked failed : Bool) (awaited : List Nat) : State :=
  { rdy with
    port := .writeDrainWait, lock := some ⟨7, .held, none, false⟩,
    txn := some ⟨writeOf 7 [⟨5, .full⟩] locked false, none, .write .through awaited failed⟩ }

theorem test_hyps_WritesCarriedOn :
    (waitingWrite .posted []).port = .writeSpaceWait ∧ (waitingWrite .through []).port = .writeSpaceWait ∧
    8 - (waitingWrite .posted (List.replicate 8 (full 0 0))).queue.length <
      (queuedBeats (writeOf 7 [⟨5, .full⟩] false false) none).length ∧
    (queuedBeats (writeOf 7 [⟨5, .full⟩] false false) none).length ≤ 8 - (waitingWrite .posted []).queue.length ∧
    (drained true false []).port = .writeDrainWait := by decide +kernel

theorem test_insertion_of_a_waiting_write : (after .writeInsertion (waitingWrite .posted [])).upSent = [.writeOk] := by
  decide +kernel
theorem test_completion_of_a_locked_write :
    (after .writeCompletion (drained true true [])).upSent = [.writeError] ∧
    (after .writeCompletion (drained true true [])).lock = none ∧
    after .writeCompletion (drained true true [0]) = drained true true [0] := by decide +kernel

/-- A read whose beat `i` of one waits. -/
def waitingRead (w : BeatWait) : State :=
  { rdy with port := .readActive, txn := some ⟨readOf 7 1 false false, none, .read 0 w⟩ }

theorem test_hyps_WaitingBeatTakenAgain :
    (waitingRead .over).port = .readActive ∧
    (waitingRead .over).txn = some ⟨readOf 7 1 false false, none, .read 0 .over⟩ ∧
    0 + 1 = (readOf 7 1 false false).count ∧ markedInRange none 0 = true ∧
    (waitingRead (.onLine 0)).readAhead.entryFor 0 = .empty ∧ newestEntry [full 7 5] 7 = some (full 7 5) ∧
    newestEntry [poison 7] 7 = some (poison 7) ∧ newestEntry [part 7] 7 = some (part 7) := by decide +kernel

/-- A burst of two beats at the end of a line, the second of them marked out of range or not, with line 0 VALID, its
last word BAD. -/
def burst (i : Nat) (second : Bool) : State :=
  { rdy with
    port := .readActive, txn := some ⟨readOf 7 2 false false, some [true, second], .read i .over⟩,
    readAhead := ⟨.valid 0 true (List.replicate 7 (.good 9) ++ [.bad 0 .uncorrectable none .original]), .filling 1 false []⟩ }

theorem test_hyps_WaitingBeatTakenAgain_burst :
    markedInRange (some [true, false]) 0 = true ∧ markedInRange (some [true, false]) 1 = false ∧
    0 + 1 ≠ (readOf 7 2 false false).count ∧ 1 < (readOf 7 2 false false).count ∧ (7 + 1) % 8 = 0 ∧
    newestEntry (burst 0 true).queue 7 = none ∧
    (burst 0 true).readAhead.entryFor (7 / 8) =
      .valid 0 true (List.replicate 7 (.good 9) ++ [.bad 0 .uncorrectable none .original]) ∧
    (burst 1 true).readAhead.entryFor (8 / 8) = .filling 1 false [] ∧ State.reset.fill.filling = true ∧
    State.reset.fill.watermark ≤ (State.reset.translate 7).1 := by decide +kernel
theorem test_beats_taken_again_in_a_burst :
    (after .readBeatRetaken { burst 0 false with queue := [full 7 5] }).upSent = [.beatOk 5, .beatOk 0] ∧
    (after .readBeatRetaken (burst 0 true)).upSent = [.beatError] ∧
    (after .readBeatRetaken (burst 1 true)).txn.map (·.progress) = some (.read 1 (.onLine 1)) := by decide +kernel

theorem test_beat_taken_again_from_the_queue :
    (after .readBeatRetaken { waitingRead .over with queue := [full 7 5] }).upSent = [.beatOk 5] ∧
    (after .readBeatRetaken (waitingRead .over)).grant = some ⟨.foreground 7 7 .original false, false⟩ := by
  decide +kernel

/-! ### Locked sequences -/

theorem test_hyps_LockedRequestsTaken :
    (Instr.lockedReadRequest 7 1 false).wellFormed = true ∧ Presentable rdy ∧
    Admitted rdy (readOf 7 1 true false) ∧
    Admitted { rdy with settings := { rdy.settings with rangePolicy := .quiet } } (readOf 65472 1 true false) ∧
    Admitted { rdy with lock := some ⟨7, .held, some 1, false⟩ } (writeOf 7 [⟨5, 0⟩] true false) ∧
    7 < rdy.straps.visible ∧ rdy.queue.length < 8 ∧ 8 ≤ (List.replicate 8 (full 0 0)).length := by decide +kernel

theorem test_locked_read_asks_for_the_array :
    (after (.lockedReadRequest 7 1 false) rdy).grant = some ⟨.foreground 7 7 .original true, false⟩ := by
  decide +kernel
theorem test_locked_write_of_no_lane_ends_the_lock :
    (after (.lockedWriteRequest 7 [⟨5, 0⟩] false) { rdy with lock := some ⟨7, .held, some 1, false⟩ }).lock = none := by
  decide +kernel

/-- An upset for each outcome of a decode of a location that holds zero. -/
theorem test_hyps_outcomes :
    rdy.mem.wf = true ∧ (decode (rdy.found 7 .zero)).outcome = .clean ∧
    (decode (rdy.found 7 one)).outcome = .corrected ∧ (decode (rdy.found 7 two)).outcome = .uncorrectable ∧
    (decode (rdy.found 7 mark)).outcome = .poisoned := by decide +kernel

theorem test_hyps_LockedReadDecoded :
    (on (.foreground 7 7 .original true)).grant = some ⟨.foreground 7 7 .original true, false⟩ := rfl
theorem test_locked_read_makes_a_lock :
    (after (.lockedReadDecode one) (on (.foreground 7 7 .original true))).lock = some ⟨7, .held, some 16, false⟩ ∧
    (after (.lockedReadDecode two) (on (.foreground 7 7 .original true))).lock = none := by decide +kernel

/-! ### The ends of array operations -/

theorem test_hyps_ForegroundReadDecoded :
    let s : State := { waitingRead .onArray with grant := some ⟨.foreground 7 7 .original false, false⟩ }
    s.mem.wf = true ∧ s.txn = some ⟨readOf 7 1 false false, none, .read 0 .onArray⟩ ∧
    0 + 1 = (readOf 7 1 false false).count := by decide +kernel
/-- The first beat of two: the second is answered from the queue. -/
theorem test_read_goes_on_with_the_next_beat :
    let s : State := { burst 0 true with grant := some ⟨.foreground 7 7 .original false, false⟩, queue := [full 8 6] }
    s.txn = some ⟨readOf 7 2 false false, some [true, true], .read 0 .over⟩ ∧ 0 < (readOf 7 2 false false).count ∧
    (after (.foregroundRead .zero) s).upSent = [.beatOk 0, .beatOk 6] := by decide +kernel
theorem test_corrected_read_is_answered_and_queued :
    let t := after (.foregroundRead one) { waitingRead .onArray with
      grant := some ⟨.foreground 7 7 .original false, false⟩ }
    t.upSent = [.beatOk 0] ∧ t.records.length = 1 ∧ t.queue.map (·.kind) = [.repair] := by decide +kernel

theorem test_hyps_AbandonedGrantFinished :
    (orphan (.foreground 7 7 .original true)).grant = some ⟨.foreground 7 7 .original true, true⟩ ∧
    (orphan (.prefetch none 7 7 .original)).grant = some ⟨.prefetch none 7 7 .original, true⟩ ∧
    (orphan (.migrationRead 7 7 .original)).mem.wf = true ∧ (orphan (.scrub 7 7 .original)).stopWaits = false ∧
    (orphan (.migrationVerify 0 7 ⟨1, 0, false⟩)).spareMap.get 0 = .free ∧
    (orphan (.migrationVerify 0 7 ⟨1, 0, false⟩)).found 7 .zero ≠ ⟨1, 0, false⟩ ∧
    (orphan (.migrationVerify 0 7 .zero)).found 7 .zero = .zero := by decide +kernel
theorem test_abandoned_read_delivers_nothing :
    (after (.foregroundRead two) (orphan (.foreground 7 7 .original false))).upSent = [] ∧
    (after (.foregroundRead two) (orphan (.foreground 7 7 .original false))).records.length = 1 := by decide +kernel

theorem test_abandoned_verify_of_a_retaken_slot_is_reported :
    let s : State := { orphan (.migrationVerify 0 65472 .zero) with
      spareMap := rdy.spareMap.set 0 (.copying 1 0 .command none), migration := some ⟨0, .original, .read, none⟩ }
    (after (.migrationVerify one) s).faults.sources.migrationFailed.set = true ∧
    (after (.migrationVerify one) s).spareMap.s0 = .copying 1 0 .command none := by decide +kernel

/-- The queue's head draining to location 7. -/
def draining (e : Entry) (dual : Option Nat) : State :=
  { on (.drain 7 .original dual) with queue := [{ e with stage := .draining }] }

theorem test_hyps_DrainEnds :
    (draining (poison 7) none).mem.wf = true ∧ (poison 7).kind = .poison ∧ (∀ n < 8, BeatWait.onArray ≠ .onEntry n) ∧
    ((full 7 5).kind ≠ .poison ∧ (full 7 5).lanes = .full) ∧
    ((part 7).kind = .busWrite ∧ (part 7).lanes ≠ .full) := by decide +kernel
theorem test_drain_writes_both_locations :
    (after (.drainEnd .zero) (draining (full 7 5) (some 65472))).mem.read 65472 = encoded 5 ∧
    (after (.drainEnd .zero) (draining (full 7 5) (some 65472))).mem.read 7 = encoded 5 := by decide +kernel
theorem test_failed_merge_marks_the_word :
    ((after (.drainEnd two) (draining (part 7) none)).mem.read 7).mark = true ∧
    (after (.drainEnd two) (draining (part 7) none)).faults.sources.writeMergeFailed.set = true := by decide +kernel

/-- A prefetch at the last word of line 0. -/
def prefetching : State :=
  { on (.prefetch (some 0) 7 7 .original) with
    readAhead := ⟨.filling 0 false (List.replicate 7 (.good 0)), .empty⟩ }

theorem test_hyps_PrefetchWordDecoded :
    prefetching.mem.wf = true ∧ prefetching.readAhead.get 0 = .filling 0 false (List.replicate 7 (.good 0)) ∧
    prefetching.fill.filling = false ∧ prefetching.txn = none ∧ 7 / 8 = 0 ∧
    (on (.prefetch none 7 7 .original)).grant = some ⟨.prefetch none 7 7 .original, false⟩ ∧
    newestEntry prefetching.queue 7 = none ∧
    (∀ n, n ≠ 0 → (prefetching.readAhead.get n).line? ≠ some 0) ∧
    (List.replicate 7 (RaSlot.good 0) ++ [RaSlot.good (decode (prefetching.found 7 .zero)).data])[7]? = some (.good 0) := by
  decide +kernel
/-- A prefetch at the second word of line 1 with a beat waiting on the line, the fill running at `mark`. -/
def prefetchAtFill (mark : Nat) : State :=
  { on (.prefetch (some 0) 9 9 .original) with
    readAhead := ⟨.filling 1 false [.good 9], .valid 2 false []⟩, fill := ⟨true, mark, false⟩,
    port := .readActive, txn := some ⟨readOf 12 1 false false, none, .read 0 (.onLine 1)⟩ }

theorem test_hyps_PrefetchWordDecoded_fill :
    (prefetchAtFill 10).readAhead.get 0 = .filling 1 false [.good 9] ∧ 9 / 8 = 1 ∧
    (∀ n, n ≠ 0 → ((prefetchAtFill 10).readAhead.get n).line? ≠ some 1) ∧
    (prefetchAtFill 10).readAhead.served = some 0 ∧
    (∀ m, 1 < m → m < 8 → (prefetchAtFill 10).fill.watermark ≤ ((prefetchAtFill 10).translate (8 * 1 + m)).1) ∧
    ¬ (prefetchAtFill 11).fill.watermark ≤ ((prefetchAtFill 11).translate (8 * 1 + 1 + 1)).1 := by
  have h (m : Nat) (h : m < 8) : ((prefetchAtFill 10).translate (8 * 1 + m)).1 = 8 + m := by
    revert m
    decide +kernel
  refine ⟨rfl, rfl, by decide +kernel, rfl, fun m h1 h2 => ?_, by decide +kernel⟩
  rw [h m h2]
  exact Nat.add_le_add_left h1 8
theorem test_prefetch_ends_at_the_watermark :
    (after (.prefetchRead .zero) (prefetchAtFill 10)).upSent = [.beatOk 0] ∧
    (after (.prefetchRead .zero) (prefetchAtFill 10)).readAhead.e0 =
      .valid 1 false (.good 9 :: List.replicate 7 (.good 0)) ∧
    (after (.prefetchRead .zero) (prefetchAtFill 11)).readAhead.e0 = .filling 1 false [.good 9, .good 0] ∧
    (after (.prefetchRead .zero) (prefetchAtFill 11)).upSent = [] := by decide +kernel
theorem test_prefetch_serves_the_waiting_beat :
    (after (.prefetchRead .zero) { prefetching with
      port := .readActive, txn := some ⟨readOf 7 1 false false, none, .read 0 (.onLine 0)⟩ }).upSent = [.beatOk 0] ∧
    (after (.prefetchRead two) prefetching).readAhead.e0.line? = some 0 := by decide +kernel

theorem test_prefetch_for_an_entry_that_is_gone_is_not_kept :
    (after (.prefetchRead one) (on (.prefetch none 7 7 .original))).readAhead = rdy.readAhead ∧
    (after (.prefetchRead one) (on (.prefetch none 7 7 .original))).records.map (·.repair) = [.queued] := by
  decide +kernel

theorem test_hyps_FillWrites :
    State.reset.mem.wf = true ∧ State.reset.grant = some ⟨.fill State.reset.fill.watermark, false⟩ ∧
    State.reset.fill.filling = true := by decide +kernel
theorem test_fill_write :
    (after .fillWrite State.reset).fill.watermark = 1 ∧ (after .fillWrite State.reset).mem.read 0 = .zero ∧
    (after .fillWrite State.reset).grant = some ⟨.fill 1, false⟩ := by decide +kernel

theorem test_hyps_InspectCarriedOut :
    (doing (.inspect 65535)).handed (.inspect 65535) = true ∧ rdy.straps.populated = 65536 ∧
    ({ doing (.inspect 7) with resetInProgress := true } : State).handed (.inspect 7) = true := by decide +kernel
theorem test_inspect_asks_for_service :
    (after (.inspect 65535) (doing (.inspect 65535))).grant = some ⟨.service 65535, false⟩ ∧
    (after (.inspect 65536) (doing (.inspect 65536))).executing = none := by decide +kernel
theorem test_inspect_read_reports_nothing :
    (after (.inspectRead two) { doing (.inspect 7) with
      grant := some ⟨.service 7, false⟩, executing := some ⟨.inspect 7, false, false, true⟩ }).records = [] := by
  decide +kernel

/-! ### The arbiter -/

theorem test_hyps_EventEnds :
    rdy.readAhead.served = none ∧ rdy.fill.filling = false ∧ State.reset.grant ≠ none ∧
    (∀ mode left, rdy.scrub.run ≠ .running mode (.sweeping left)) := by
  refine ⟨rfl, rfl, by decide +kernel, fun mode left h => ?_⟩
  cases h
/-- The words at offsets 0 to 3 of line 1 lie below the watermark, those at offsets 4 to 7 above it. -/
theorem test_served_line_is_filled_above_the_watermark :
    let s (n : Nat) : State := { State.reset with
      readAhead := ⟨.filling 1 false (List.replicate n (.good 9)), .empty⟩, fill := ⟨true, 12, false⟩ }
    (s 2).readAhead.served = some 0 ∧ (s 2).settle.readAhead = (s 2).readAhead ∧
    (s 4).settle.readAhead.e0 = .valid 1 false (List.replicate 4 (.good 9) ++ List.replicate 4 (.good 0)) := by
  decide +kernel
theorem test_hyps_ArbiterGrants :
    ({ rdy with queue := [full 7 5] } : State).winner = some .drain ∧ rdy.winner = none ∧ rdy.grant = none ∧
    rdy.fill.due = false ∧ ¬ (ReqClass.drain = .scrub ∧ rdy.scrubSkips = true) ∧
    ({ sweeping with queue := [full 9 5], passOver := ⟨0, 0, 32⟩ } : State).winner = some .scrub ∧
    ({ sweeping with queue := [full 7 5], passOver := ⟨0, 0, 32⟩ } : State).winner = some .scrub ∧
    ({ sweeping with queue := [full 7 5], passOver := ⟨0, 0, 32⟩ } : State).scrubSkips = true := by decide +kernel
theorem test_hyps_RequestsStand :
    (waitingRead .onArray).txn = some ⟨readOf 7 1 false false, none, .read 0 .onArray⟩ ∧
    (waitingRead .onLock).txn = some ⟨readOf 7 1 false false, none, .read 0 .onLock⟩ ∧
    ({ rdy with queue := [full 7 5] } : State).queue = full 7 5 :: [] ∧ rdy.queue = [] ∧ rdy.txn = none := by
  decide +kernel
theorem test_hyps_GrantNamesLocation :
    let active : State := { rdy with spareMap := rdy.spareMap.set 7 (.active 0 .command) }
    active.spareMap.get 7 = .active 0 .command ∧ (∀ k, k ≠ 7 → active.spareMap.get k = .free) ∧
    active.translate 7 = (65535, .slot 7) ∧ (copying 3 .read none).spareMap.get 0 = .copying 1 3 .promotion none ∧
    (∀ k, k ≠ 0 → (copying 3 .read none).spareMap.get k = .free) ∧ (copying 3 .read none).dualOf 10 = some 65474 ∧
    (copying 3 .read none).dualOf 11 = none ∧ (waitingRead .onArray).foregroundWord = some 7 ∧
    prefetching.prefetchWord = some (0, 7) := by decide +kernel

/-! ### Detections, records and faults -/

theorem test_hyps_OfferDecided :
    (∃ e ∈ [full 7 5], e.address = 7) ∧ (∀ e ∈ List.replicate 8 (full 0 0), e.address ≠ 7) ∧
    8 ≤ (List.replicate 8 (full 0 0)).length ∧ rdy.queue.length < 8 ∧ (∃ r ∈ recs, r.address = 8) ∧
    ∀ r ∈ recs, r.address ≠ 7 := by decide +kernel

/-- An arrival, and a full table of records of one kind. -/
def arrival (a : Nat) : Arrival := ⟨a, .original, .corrected, none, none, .read, .queued, false⟩
def table (kind : Detected) : List ErrRecord :=
  (List.range 16).map fun a => { ErrRecord.fresh (arrival (8 * a)) with kind := kind }

theorem test_hyps_ArrivalPlaced :
    RecordsOk recs ∧ RecordsOk (table .corrected) ∧ RecordsOk (table .poisoned) ∧
    (recs[0]?.map (·.address) = some 8 ∧ recs[0]?.map (·.location) = some .original) ∧
    (∀ r ∈ recs, r.address ≠ 7) ∧ recs.length < 16 ∧ (table .corrected).length = 16 ∧
    (∀ r ∈ table .corrected, r.address ≠ 7 ∧ r.kind = .corrected ∧ r.state = .opened) ∧
    ∀ r ∈ table .poisoned, r.kind ≠ .corrected := by decide +kernel
theorem test_hyps_PromotionExamined :
    RecordsOk recs ∧ placed (table .poisoned) (arrival 7) = none ∧
    (placed recs (arrival 8)).isSome = true ∧ (∃ n, rdy.spareMap.get n = .free) := by
  refine ⟨by decide +kernel, by decide +kernel, by decide +kernel, 0, rfl⟩
theorem test_third_correction_is_promoted :
    (({ rdy with records := [{ ErrRecord.fresh (arrival 8) with count := 2 }] } : State).arrive (arrival 8)).records.map
      (·.state) = [.promotePending] := by decide +kernel
theorem test_hyps_OccurrenceRecorded :
    (rdy.faults.sources.get .corrected).set = false ∧ rdy.settings.reactions.get .corrected = .ignore ∧
    rdy.settings.reactions.get .lockFault ≠ .ignore ∧
    ((rdy.occur .lockFault).faults.sources.get .lockFault).set = true ∧
    ({ rdy.settings with escalate := 0x80 } : Settings).escalate.getLsbD FaultSource.lockFault.place = true ∧
    ({ rdy.faults with mode := .halted } : FaultUnit).mode = .halted ∧ rdy.scrubGranted = false ∧
    (on (.scrub 7 7 .original)).scrubGranted = true := by
  decide +kernel

/-! ### Line sparing -/

theorem test_hyps_MigrationStarts :
    let s : State := { rdy with records := recs }
    let none' : State := { s with spareMap := .make fun _ => .retired }
    s.migration = none ∧ s.fill.filling = false ∧ s.resetInProgress = false ∧
    s.records[1]?.map (·.state) = some .promotePending ∧ s.lineLocked 2 = false ∧ s.spareMap.get 0 = .free ∧
    (∀ n, none'.spareMap.get n ≠ .free) ∧ State.reset.fill.filling = true := by decide +kernel
/-- No slot FREE: two PROMOTE_PENDING lines, and a third whose word is locked. -/
def releasing : State :=
  { rdy with
    spareMap := .make fun _ => .retired, lock := some ⟨32, .held, some 1, false⟩,
    records := [16, 8, 33].map fun a => { ErrRecord.fresh (arrival a) with state := .promotePending } }

theorem test_hyps_MigrationStarts_release :
    (∀ n, releasing.spareMap.get n ≠ .free) ∧ releasing.records[0]?.map (·.address) = some 16 ∧
    releasing.lineLocked 2 = false ∧ releasing.lineLocked 1 = false ∧ releasing.lineLocked 4 = true ∧
    releasing.records.map (·.address / 8) = [2, 1, 4] ∧
    (after .migrationStart releasing).records.map (·.state) = [.opened, .opened, .promotePending] ∧
    (after .migrationStart releasing).faults.sources.spareExhausted.count = 2 ∧
    after .migrationStart (after .migrationStart releasing) = after .migrationStart releasing := by decide +kernel
theorem test_migration_starts :
    (after .migrationStart { rdy with records := recs }).spareMap.s0 = .copying 2 0 .promotion none ∧
    (after .migrationStart { rdy with records := recs }).grant = some ⟨.migrationRead 16 16 .original, false⟩ := by
  decide +kernel

/-- A migration with a grant in progress. -/
def step3 (c : Nat) (step : CopyStep) (held : Option StoredWord) (op : GrantOp) : State :=
  { copying c step held with grant := some ⟨op, false⟩ }

theorem test_hyps_CopyStep :
    (step3 0 .read none (.migrationRead 8 8 .original)).migration = some ⟨0, .original, .read, none⟩ ∧
    (step3 0 .write (some .zero) (.migrationWrite 65472 .zero)).mem.wf = true ∧
    (step3 0 .verify (some .zero) (.migrationVerify 0 65472 .zero)).spareMap.get 0 = .copying 1 0 .promotion none ∧
    (step3 7 .verify (some .zero) (.migrationVerify 0 65479 .zero)).found 65479 .zero = .zero ∧
    (step3 7 .verify (some .zero) (.migrationVerify 0 65479 .zero)).found 65479 one ≠ .zero ∧
    (copying 0 .read none).spareMap.get 1 = .free ∧
    (∀ k, (PerSlot.make fun _ => SpareEntry.retired).get k ≠ .free) := by decide +kernel
theorem test_copy_step_reads :
    (after (.migrationRead one) (step3 0 .read none (.migrationRead 8 8 .original))).grant =
      some ⟨.migrationWrite 65472 .zero, false⟩ := by decide +kernel
theorem test_copy_step_writes :
    (after .migrationWrite (step3 0 .write (some .zero) (.migrationWrite 65472 .zero))).grant =
      some ⟨.migrationVerify 0 65472 .zero, false⟩ := by decide +kernel
theorem test_migration_completes :
    (after (.migrationVerify .zero) (step3 7 .verify (some .zero) (.migrationVerify 0 65479 .zero))).spareMap.s0 =
      .active 1 .promotion := by decide +kernel
theorem test_failed_slot_is_retired :
    (after (.migrationVerify one) (step3 7 .verify (some .zero) (.migrationVerify 0 65479 .zero))).spareMap.s0 = .retired ∧
    (after (.migrationVerify one) (step3 7 .verify (some .zero) (.migrationVerify 0 65479 .zero))).spareMap.s1 =
      .copying 1 0 .promotion none := by decide +kernel

theorem test_hyps_PinnedRecordsKept :
    RecordsOk recs ∧ recs[1]?.map (·.state) = some .promotePending ∧
    after .clearRecords { doing .clearRecords with records := recs } ≠ { doing .clearRecords with records := recs } ∧
    (∀ straps level, Instr.clearRecords ≠ .powerOn straps level) ∧
    (∀ u, Instr.clearRecords ≠ .foregroundRead u ∧ Instr.clearRecords ≠ .prefetchRead u) := by
  refine ⟨by decide +kernel, rfl, by decide +kernel, by simp, by simp⟩
/-- One arrival at a table with a pinned record of word 16: for another word, from its location, and from another. -/
theorem test_hyps_PinnedRecordsKept_arrival :
    (placed recs (arrival 7)).isSome = true ∧ (placed recs (arrival 16)).isSome = true ∧
    (recs.map (·.location)).getLast? = some (arrival 16).location ∧
    (({ rdy with records := recs } : State).arrive (arrival 16)).records.map (·.state) = [.opened, .promotePending] ∧
    (({ rdy with records := recs } : State).arrive { arrival 16 with location := .slot 2 }).records.map (·.state) =
      [.opened, .opened] := by decide +kernel
/-- A read of the pinned record's word from its location. -/
theorem test_hyps_PinnedRecordsKept_read :
    let s : State := { on (.foreground 16 16 .original false) with records := recs }
    (∀ a loc k locked o, s.grant = some ⟨.foreground a loc k locked, o⟩ → a = 16 → k = .original) ∧
    (∀ e a loc k o, s.grant ≠ some ⟨.prefetch e a loc k, o⟩) ∧
    (after (.foregroundRead one) s).records.map (·.address) = [8, 16] := by
  refine ⟨fun a loc k locked o h _ => ?_, fun e a loc k o h => ?_, by decide +kernel⟩
  · cases h
    rfl
  · cases h

/-! ### The scrub and the timers -/

theorem test_hyps_ScrubWordEnds :
    let s : State := { sweeping with grant := some ⟨.scrub 7 7 .original, false⟩ }
    s.mem.wf = true ∧ s.stopWaits = false ∧ ({ sweeping with queue := [part 7] } : State).scrubSkips = true ∧
    ({ sweeping with queue := [{ part 7 with stage := .draining }] } : State).winner = some .scrub := by decide +kernel
theorem test_scrub_corrects_the_word :
    let t := after (.scrubWord one) { sweeping with grant := some ⟨.scrub 7 7 .original, false⟩ }
    t.mem.read 7 = .zero ∧ t.records.map (·.repair) = [.direct] ∧ t.scrub.line = 1 := by decide +kernel
/-- The word at the cursors has an entry; the block's last word is skipped, and the next event grants nothing more. -/
theorem test_scrub_skips_a_queued_word :
    let t := ({ sweeping with queue := [{ part 7 with stage := .draining }] } : State).settle
    t.scrub.skipped = 1 ∧ t.scrub.line = 1 ∧ t.scrub.run = .running .single (.waiting 1000 false) ∧ t.grant = none := by
  decide +kernel
theorem test_skip_leaves_the_array_to_the_next_word :
    let s : State := { sweeping with
      queue := [part 6], passOver := ⟨0, 0, 32⟩, scrub := { sweeping.scrub with word := 6 } }
    s.settle.grant = some ⟨.drain 6 .original none, false⟩ ∧ s.settle.scrub.skipped = 1 ∧
    s.settle.passOver.scrub = 1 := by decide +kernel

theorem test_hyps_ScrubCursorsAdvance :
    sweeping.scrub.run = .running .single (.sweeping 1) ∧ sweeping.scrub.word = 7 ∧
    sweeping.scrub.line < sweeping.settings.scrubEndLine ∧ ({ sweeping.scrub with word := 6 } : Scrub).word < 7 ∧
    ({ sweeping.scrub with line := 8183 } : Scrub).line = sweeping.settings.scrubEndLine ∧
    1 < (16 : Nat) ∧ (7 : Nat) ≤ 7 := by decide +kernel

/-- A lock and an interval with one tick left. -/
def lastTick : State :=
  { rdy with
    lock := some ⟨7, .broken, some 1, false⟩, scrub := ⟨.running .continuous (.waiting 1 false), 0, 0, 0, 0, 0⟩ }

theorem test_hyps_TicksAndExpiries :
    lastTick.lockExpiryDue = false ∧ lastTick.scrub.expiryDue = false ∧
    (after .tick lastTick).lock = some ⟨7, .broken, some 1, true⟩ ∧
    (after .tick lastTick).scrub.run = .running .continuous (.waiting 1 true) := by decide +kernel
theorem test_lock_expires :
    (after .lockHoldExpiry (after .tick lastTick)).lock = none ∧
    (after .lockHoldExpiry (after .tick lastTick)).faults.sources.lockFault.count = 1 := by decide +kernel
theorem test_interval_expires :
    (after .scrubIntervalExpiry (after .tick lastTick)).grant = some ⟨.scrub 0 0 .original, false⟩ := by decide +kernel
/-- A tick that finds both expiries due, and one that finds the interval's alone. -/
theorem test_hyps_TicksAndExpiries_due :
    (after .tick lastTick).lockExpiryDue = true ∧ ({ after .tick lastTick with lock := none } : State).lockExpiryDue = false ∧
    ({ after .tick lastTick with lock := none } : State).scrub.run = .running .continuous (.waiting 1 true) := by
  decide +kernel
/-- The lock's expiry first: where LOCK_FAULT reaches HALT the scrub rests with the interval's tick still to come. -/
theorem test_tick_takes_what_is_due :
    let s := after .tick lastTick
    let halts : State := { s with settings := { s.settings with reactions := s.settings.reactions.set .lockFault .halt } }
    (after .tick s).lock = none ∧ (after .tick s).scrub.run = .running .continuous (.sweeping 16) ∧
    (after .tick halts).scrub.run = .paused .continuous (.waiting 1 false) := by decide +kernel

/-! ### The service link -/

theorem test_hyps_ReceiverStartsAndReturns :
    rdy.link.receiver = .idle ∧ State.reset.link.receiver = .powerUp ∧ State.reset.link.receiver ≠ .idle ∧
    rdy.link.receiver ≠ .powerUp ∧ rdy.link.receiver ≠ .afterBreak := by decide +kernel
theorem test_start_bit : (after (.startBitDetected 1) rdy).link.receiver = .receiving true := by decide +kernel
theorem test_receiver_returns_to_idle :
    (after .receiverReturnsToIdle State.reset).link.receiver = .idle := by decide +kernel

/-- `rdy` with the receiver in a character. -/
def inCharacter : State := { rdy with link := { rdy.link with receiver := .receiving false } }

theorem test_hyps_CharacterDelivered :
    inCharacter.link.receiver = .receiving false ∧ inCharacter.link.rxTiming.fraction ≤ 7 := ⟨rfl, by decide⟩
theorem test_character_is_delivered :
    (after (.characterReceived (cleanSamples 0xA5 true)) inCharacter).link.fifo = [.character 0xA5 true false] ∧
    (after (.characterReceived 0) inCharacter).link.fifo = [.framingError] := by decide +kernel

theorem test_hyps_BreakResetsParser :
    inCharacter.link.receiver = .receiving false ∧ 1 ≤ (1 : Nat) ∧ inCharacter.link.parser = .hunt ∧
    inCharacter.link.rxTiming.fraction ≤ 7 ∧
    2 ≤ [(0 : Byte), 0, 0].length ∧ 2 < [(0 : Byte), 0, 0].length ∧ inCharacter.link.inUse.fraction ≤ 7 := by
  decide +kernel
theorem test_break_cuts_a_response :
    (after (.breakReceived 9) { inCharacter with
      link := { inCharacter.link with parser := .respond [1, 2, 3] true } }).svcSent = [[1, 2].flatMap sentBits] ∧
    (after (.breakReceived 9) { inCharacter with
      link := { inCharacter.link with parser := .respond [1, 2, 3] true } }).resetDue = true := by decide +kernel

theorem test_hyps_ParserTakesItem :
    let hunting : State := { rdy with link := { rdy.link with fifo := [.character 63 true false] } }
    let collecting (p : FramePosition) (item : FifoItem) : State :=
      { rdy with
        link := { rdy.link with parser := .collect, frame := ⟨false, 0, 2, [], 0, p, false⟩, fifo := [item] } }
    hunting.link.parser = .hunt ∧ hunting.link.fifo = .character 63 true false :: [] ∧
    (63 : Byte) = 63 ∧ ((0 : Byte).toNat = rdy.straps.station.toNat) ∧ (1 : Byte) ≠ 63 ∧
    (collecting .command .framingError).link.parser = .collect ∧
    (collecting .length (.character 32 false false)).link.frame.position = .length ∧
    32 < (33 : Byte).toNat ∧ (32 : Byte).toNat ≤ 32 := by decide +kernel
theorem test_address_opens_a_frame :
    (after .parserTakesItem { rdy with link := { rdy.link with fifo := [.character 0 true true] } }).link.frame.noise =
      true := by decide +kernel

theorem test_hyps_CompleteFrameChecked :
    frameAtEnd.link.parser = .collect ∧ frameAtEnd.link.fifo = .character 0xFB false false :: [] ∧
    frameAtEnd.link.frame.position = .checksum ∧ frameAtEnd.executing = none ∧
    byteSum [0x10, 0, 0xF0] = 0 ∧ argumentBytes 0x10 = some 0 ∧ byteSum [5, 0, 0xFB] = 0 ∧ byteSum [5, 0, 0xFA] ≠ 0 ∧
    argumentBytes 5 = some 0 ∧ argumentBytes 0 = none ∧
    argumentBytes 4 = some 2 ∧ ({ doing .releaseMode with link := frameAtEnd.link } : State).executing ≠ none := by
  decide +kernel
theorem test_frame_is_handed_over :
    (after .parserTakesItem frameAtEnd).executing = some ⟨.releaseMode, false, false, false⟩ := by decide +kernel

/-- `rdy` sending a response. -/
def responding : State := { rdy with link := { rdy.link with parser := .respond [0, 0, 0] true } }

theorem test_hyps_ResponseSentAndTimerExpired :
    responding.link.parser = .respond [0, 0, 0] true ∧ responding.link.inUse.fraction ≤ 7 ∧ frameAtEnd.link.parser = .collect ∧
    frameAtEnd.link.frameTimer.isSome = true ∧ rdy.link.parser ≠ .collect ∧ ([] : List Byte).length ≤ 32 := by
  decide +kernel
theorem test_response_sent :
    (after .responseSent responding).svcSent = [[0, 0, 0].flatMap sentBits] ∧
    (after .responseSent responding).resetDue = true ∧ (after .responseSent responding).link.svcTx = .released := by
  decide +kernel
theorem test_bits_of_a_sent_character :
    sentBits 0xA5 = [.low, .released, .low, .released, .low, .low, .released, .low, .released, .low, .released] := by
  decide
theorem test_frame_timer_expiry : (after .frameTimerExpiry frameAtEnd).link.parser = .hunt := by decide +kernel

/-! ### Service commands -/

theorem test_hyps_CommandEnds :
    (doing .identify).executing = some ⟨.identify, false, false, false⟩ ∧
    ({ doing .identify with executing := some ⟨.identify, true, false, false⟩ } : State).executing =
      some ⟨.identify, true, false, false⟩ ∧
    ¬ (rdy.link.parser = .collect ∧ rdy.link.frame.position = .complete) := by decide +kernel
/-- A SCRUB_STOP whose response has been withdrawn ends while a complete RELEASE_MODE waits. -/
theorem test_frame_that_waited_is_handed_over :
    let s : State := { doing .scrubStop with
      executing := some ⟨.scrubStop, false, true, false⟩,
      link := { rdy.link with parser := .collect, frame := ⟨false, 5, 0, [], 0xFB, .complete, false⟩ } }
    (s.link.parser = .collect ∧ s.link.frame.position = .complete) ∧
    (after .scrubStop s).executing = some ⟨.releaseMode, false, false, false⟩ := by decide +kernel
theorem test_hyps_AnsweredWithNothingElse :
    (doing .identify).handed .identify = true ∧ (doing .readStatus).handed .readStatus = true ∧
    (doing .readFaults).handed .readFaults = true ∧ (doing .readSpareMap).handed .readSpareMap = true ∧
    (doing .resetPart).handed .resetPart = true ∧ rdy.scrub.word ≤ 7 ∧ rdy.migration = none ∧
    (copying 3 .read none).migration = some ⟨0, .original, .read, none⟩ ∧
    (copying 3 .read none).spareMap.get 0 = .copying 1 3 .promotion none ∧
    (rdy.faults.sources.get .corrected).count ≤ 15 := by decide +kernel
theorem test_identify :
    (after .identify (doing .identify)).link.svcTx = .sending ∧
    (after .identify (doing .identify)).link.parser =
      .respond (response .ok [0x57, 0x0B, 0xA1, 0x01, 1, 0, 0, 1, 0xC0, 0xFF, 0, 0, 0] false) false := by decide +kernel
theorem test_read_status :
    (after .readStatus (doing .readStatus)).link.parser ≠ .hunt ∧ rdy.statusBytes.take 5 = [0, 0, 0, 0, 1] := by
  decide +kernel
theorem test_read_faults : (after .readFaults (doing .readFaults)).executing = none ∧
    rdy.faultBytes.take 4 = [0, 0x22, 0, 0x22] := by decide +kernel
theorem test_read_spare_map : (after .readSpareMap (doing .readSpareMap)).executing = none ∧
    (spareMapBytes (copying 3 .read none).spareMap).take 4 = [1, 1, 0, 0x30] := by decide +kernel
theorem test_reset_part :
    (after .resetPart (doing .resetPart)).link.parser = .respond [0, 0, 0] true := by decide +kernel

/-- A SET source at CONTAIN, and the mode it has brought about. -/
def contained : FaultUnit :=
  { rdy.faults with
    sources := rdy.faults.sources.set .lockFault ⟨true, 2, .contain⟩, mode := .contained, alert := true }

theorem test_hyps_FaultsClearedAndModeReleased :
    (doing (.clearFaults 0x200)).handed (.clearFaults 0x200) = true ∧ 512 ≤ (0x200#16).toNat ∧
    (0x1FF#16).toNat < 512 ∧ (0x1FF#16) = 0x1FF ∧ (0x0FF#16) ≠ 0x1FF ∧
    (doing .releaseMode).handed .releaseMode = true := by decide +kernel
theorem test_clear_faults_keeps_the_mode :
    (after (.clearFaults 0x080) { doing (.clearFaults 0x080) with faults := contained }).faults.mode = .contained ∧
    (after (.clearFaults 0x080) { doing (.clearFaults 0x080) with faults := contained }).faults.alert = false := by
  decide +kernel
theorem test_release_mode :
    (after .releaseMode { doing .releaseMode with faults := { rdy.faults with mode := .halted } }).faults.mode = .normal ∧
    (after .releaseMode { doing .releaseMode with faults := contained }).faults.mode = .contained := by decide +kernel

theorem test_hyps_RecordCommands :
    let s (c : SvcCommand) : State := { doing c with records := recs }
    (s (.readRecords 1 1)).handed (.readRecords 1 1) = true ∧ (s (.readRecords 0 2)).records[1]?.isSome = true ∧
    ¬ (((2 : Byte) = 1 ∨ (2 : Byte) = 2) ∧ (1 : Byte).toNat + (2 : Byte).toNat ≤ recs.length) ∧
    (s (.closeRecord 8)).handed (.closeRecord 8) = true ∧ RecordsOk recs ∧ (∀ r ∈ recs, r.address ≠ 7) ∧
    recs[0]?.map (·.state) = some .opened ∧ recs[1]?.map (·.state) = some .promotePending ∧
    (s .clearRecords).handed .clearRecords = true := by decide +kernel
theorem test_read_records :
    (after (.readRecords 0 2) { doing (.readRecords 0 2) with records := recs }).executing = none ∧
    (recordBytes recs 0 2).length = 28 := by decide +kernel
theorem test_close_record :
    (after (.closeRecord 8) { doing (.closeRecord 8) with records := recs }).records.length = 1 ∧
    (after (.closeRecord 16) { doing (.closeRecord 16) with records := recs }).records.length = 2 := by decide +kernel
theorem test_clear_records :
    (after .clearRecords { doing .clearRecords with records := recs }).records.map (·.address) = [16] := by decide +kernel

theorem test_hyps_LineSparedByCommand :
    (doing (.spareLine 8183)).handed (.spareLine 8183) = true ∧ rdy.straps.visible / 8 = 8184 ∧
    rdy.resetInProgress = false ∧ rdy.fill.filling = false ∧ rdy.migration = none ∧ rdy.lock = none ∧
    rdy.grant = none ∧ rdy.spareMap.get 0 = .free ∧
    (∀ k, (PerSlot.make fun _ => SpareEntry.retired).get k ≠ .free) ∧
    ({ doing (.spareLine 0) with resetInProgress := true } : State).resetInProgress = true := by decide +kernel
theorem test_spare_line :
    (after (.spareLine 8183) (doing (.spareLine 8183))).spareMap.s0 = .copying 8183 0 .command none ∧
    (after (.spareLine 8184) (doing (.spareLine 8184))).spareMap.s0 = .free := by decide +kernel

theorem test_hyps_ScrubCommands :
    (doing (.scrubStart 1)).handed (.scrubStart 1) = true ∧ (2 : Byte) ≠ 0 ∧ (2 : Byte) ≠ 1 ∧
    ¬ (rdy.scrub.run ≠ .stopped ∨ rdy.fill.filling = true ∨ rdy.resetInProgress = true) ∧
    sweeping.scrub.run ≠ .stopped ∧ (doing .scrubStop).handed .scrubStop = true ∧
    (∀ a loc k o, (doing .scrubStop).grant ≠ some ⟨.scrub a loc k, o⟩) ∧
    (∀ o, ({ doing .scrubStop with grant := some ⟨.scrub 7 7 .original, o⟩ } : State).grant =
      some ⟨.scrub 7 7 .original, o⟩) ∧
    ({ doing .scrubStop with
      grant := some ⟨.scrub 7 7 .original, false⟩, executing := some ⟨.scrubStop, false, false, true⟩ } :
        State).stopWaits = true := by
  refine ⟨by decide +kernel, by decide, by decide, by decide +kernel, by decide +kernel, by decide +kernel, ?_, ?_,
    by decide +kernel⟩
  · intro a loc k o h
    cases h
  · exact fun _ => rfl
theorem test_scrub_start :
    (after (.scrubStart 1) (doing (.scrubStart 1))).scrub.run = .running .continuous (.sweeping 16) ∧
    (after (.scrubStart 2) (doing (.scrubStart 2))).scrub.run = .stopped := by decide +kernel
theorem test_scrub_stop :
    (after .scrubStop { doing .scrubStop with scrub := sweeping.scrub }).scrub.run = .stopped := by decide +kernel

theorem test_scrub_stop_waits_for_an_abandoned_grant :
    let s : State := { doing .scrubStop with grant := some ⟨.scrub 7 7 .original, true⟩, scrub := sweeping.scrub }
    (after .scrubStop s).scrub.run = .stopped ∧ (after .scrubStop s).stopWaits = true ∧
    (after (.scrubWord .zero) (after .scrubStop s)).executing = none := by decide +kernel

/-- A SCRUB_STOP that waits for the end of a SCRUB grant; test_hyps_outcomes has a word for each outcome. -/
theorem test_hyps_ScrubCommands_end :
    let s (u : Upset) : State := after (.scrubWord u) { doing .scrubStop with
      executing := some ⟨.scrubStop, false, false, true⟩, scrub := sweeping.scrub,
      grant := some ⟨.scrub 7 7 .original, false⟩ }
    [one, two, mark].map (fun u => (s u).records.map (·.kind)) = [[.corrected], [.uncorrectable], [.poisoned]] ∧
    [.zero, one, two, mark].all (fun u => (s u).scrub = { sweeping.scrub with run := .stopped, line := 1, word := 0 } &&
      (s u).executing = none) = true := by decide +kernel

theorem test_hyps_SettingsReadAndWritten :
    (doing (.getSetting 1)).handed (.getSetting 1) = true ∧ rdy.settings.value 0x29 = some 0 ∧
    rdy.settings.value 0x12 = none ∧ isReactionItem 0x0A = false ∧
    (doing (.setSetting 0x0A 8183)).handed (.setSetting 0x0A 8183) = true ∧
    rdy.settings.put 8184 0x0A 8184 = none ∧ (rdy.settings.put 8184 0x0A 8183).isSome = true ∧
    (rdy.settings.put 8184 0x21 4).isSome = true ∧ (rdy.settings.put 8184 0x10 16).isSome = true ∧
    rdy.scrub.run = .stopped ∧ sweeping.scrub.run ≠ .stopped ∧ Reaction.halt.rank = 4 ∧
    ¬ (1 ≤ (0x12 : Byte).toNat ∧ (0x12 : Byte).toNat ≤ 0x11) ∧
    ¬ (0x21 ≤ (0x2A : Byte).toNat ∧ (0x2A : Byte).toNat ≤ 0x29) := by decide +kernel
theorem test_get_setting :
    (after (.getSetting 0x10) (doing (.getSetting 0x10))).link.parser =
      .respond (response .ok [217, 0, 0, 0] false) false := by decide +kernel
theorem test_set_setting :
    (after (.setSetting 0x0F 255) (doing (.setSetting 0x0F 255))).settings.tickDivisor = 255 ∧
    (after (.setSetting 0x0F 256) (doing (.setSetting 0x0F 256))).settings.tickDivisor = 32 := by decide +kernel

theorem test_hyps_ReactionSet :
    (doing (.setSetting (FaultSource.item .lockFault) 4)).handed (.setSetting (FaultSource.item .lockFault) 4) = true ∧
    Reaction.halt.rank = (4#32).toNat ∧ 4 < (5#32).toNat ∧ rdy.scrubGranted = false ∧
    (on (.scrub 7 7 .original)).scrubGranted = true ∧ contained.mode ≠ .halted := by decide +kernel
theorem test_set_reaction :
    let s : State := { doing (.setSetting 0x28 4) with faults := contained, scrub := sweeping.scrub }
    let granted : State := { s with grant := some ⟨.scrub 7 7 .original, false⟩ }
    (after (.setReaction .lockFault 4) s).faults.mode = .halted ∧
    (after (.setReaction .lockFault 4) s).settings.reactions.lockFault = .halt ∧
    (after (.setReaction .lockFault 4) s).scrub.run = .paused .single (.sweeping 1) ∧
    (after (.setReaction .lockFault 4) granted).scrub.run = .running .single (.sweeping 1) := by decide +kernel

/-! ### Power-on and reset -/

theorem test_power_on :
    (after (.powerOn ⟨7, 1, true⟩ false) rdy).port = .reset ∧
    (after (.powerOn ⟨7, 1, true⟩ false) rdy).straps.populated = 4194304 := by decide +kernel
theorem test_hyps_SystemResetActs :
    rdy.rstN = true ∧ ({ rdy with resetDue := true } : State).resetDue = true ∧ rdy.straps.preserve = false ∧
    ({ rdy with straps := ⟨0, 0, true⟩ } : State).straps.preserve = true ∧ rdy.grant = none ∧
    (on (.service 7)).grant = some ⟨.service 7, false⟩ ∧
    prefetching.grant = some ⟨.prefetch (some 0) 7 7 .original, false⟩ ∧
    (after (.systemReset .rstnFalls) prefetching).grant = some ⟨.prefetch none 7 7 .original, true⟩ := by decide +kernel
theorem test_draining_head_is_finished :
    (after (.systemReset .rstnFalls) { draining (full 7 5) none with
      queue := [{ full 7 5 with stage := .draining }, full 8 5] }).queue = [{ full 7 5 with stage := .draining }] ∧
    (after (.systemReset .rstnFalls) (draining (full 7 5) none)).fill.due = true := by decide +kernel
theorem test_system_reset :
    (after (.systemReset .rstnFalls) { rdy with queue := [full 7 5] }).queue = [] ∧
    (after (.systemReset .rstnFalls) { rdy with queue := [full 7 5], straps := ⟨0, 0, true⟩ }).queue.length = 1 := by
  decide +kernel
/-- A reset drain that has ended, and a fill that is due. -/
def resetting (due : Bool) (rstN : Bool) : State :=
  { rdy with port := .reset, resetInProgress := true, rstN := rstN, fill := ⟨false, 65536, due⟩ }
theorem test_hyps_ResetEnds :
    (resetting false false).rstN = false ∧ (resetting false true).resetInProgress = true ∧
    (resetting false true).queue = [] ∧ (resetting false true).fill.due = false ∧
    (resetting true true).fill.due = true ∧ (resetting true true).grant = none ∧
    ({ resetting true true with grant := some ⟨.service 7, true⟩ } : State).grant ≠ none := by decide +kernel
theorem test_rst_n_rises :
    (after .rstNRises { rdy with rstN := false, port := .reset }).port = .ready ∧
    (after .rstNRises (resetting false false)).port = .reset := by decide +kernel
theorem test_reset_completes : (after .resetCompletes (resetting false true)).port = .ready := by decide +kernel
theorem test_fill_begins :
    (after .fillBegins (resetting true true)).grant = some ⟨.fill 0, false⟩ ∧
    (after .fillBegins (resetting true true)).fill = ⟨true, 0, false⟩ := by decide +kernel

/-! ### Invariants -/

theorem test_hyps_invariants :
    rdy.mem.wf = true ∧ QueueOk rdy.queue ∧ RecordsOk rdy.records ∧ CountsOk rdy.passOver ∧
    (1 ≤ rdy.tickLength ∧ rdy.tickLength ≤ 255) ∧ SettingsOk rdy.settings rdy.straps.visibleLines ∧
    ScrubOk rdy.scrub rdy.straps.visibleLines ∧ LinkOk rdy.link ∧ rdy.settings.linkFraction ≤ 7 := by decide +kernel
theorem test_hyps_invariants_step : step rdy = .next rdy := rfl
theorem test_hyps_invariants_faults : FaultsOk rdy.faults rdy.settings.reactions := by
  refine ⟨?_, ?_⟩
  · intro src
    cases src <;> decide +kernel
  · constructor
    · intro h
      exact absurd h (by decide +kernel)
    · rintro ⟨src, h, _⟩
      cases src <;> exact absurd h (by decide +kernel)
theorem test_hyps_invariants_engines : EnginesOk rdy ∧ FillOk rdy := by
  refine ⟨⟨?_, ?_, ?_, ?_, fun h => absurd h (by decide +kernel)⟩, ?_, ?_, by decide +kernel, by decide +kernel, ?_⟩
  · exact fun h => absurd rfl h
  · exact fun h => absurd h (by decide +kernel)
  · exact fun h => absurd h (by decide +kernel)
  · exact fun h => absurd h (by decide +kernel)
  · exact fun h => absurd h (by decide +kernel)
  · exact fun _ => rfl
  · intro loc h
    cases h
theorem test_hyps_invariants_map : MapOk rdy.spareMap rdy.migration := by
  have free : ∀ n, rdy.spareMap.get n = .free := by decide +kernel
  refine ⟨by decide +kernel, ?_, ?_⟩
  · intro n k line h
    simp [free n, SpareEntry.activeLine] at h
  · intro n line cursor origin previous h
    simp [free n] at h
theorem test_hyps_invariants_service : CommandOk rdy ∧ ∀ l, rdy.lock = some l → LockOk l := by
  refine ⟨⟨fun h => absurd h (by decide +kernel), ?_⟩, ?_⟩
  · rintro ⟨e, h, _⟩
    cases h
  · intro l h
    cases h

end Sys2Proof.Machine.Tests
end

section
/-! The Code Unit (R3 to R13): parities over lists of positions, the syndrome as such parities, the syndrome of an
encoded word and of a changed one, and the rows of the classification. -/

namespace Sys2Proof.Machine

/-! ### Parities -/

/-- The exclusive-or of `f` over a list of positions. -/
def parityOver (f : Nat → Bool) : List Nat → Bool
  | [] => false
  | i :: is => f i ^^ parityOver f is

@[simp] theorem parityOver_append (f : Nat → Bool) (is js : List Nat) :
    parityOver f (is ++ js) = (parityOver f is ^^ parityOver f js) := by
  induction is with
  | nil => simp [parityOver]
  | cons i is ih => simp [parityOver, ih]

theorem parityOver_map (f : Nat → Bool) (g : Nat → Nat) (is : List Nat) :
    parityOver f (is.map g) = parityOver (fun i => f (g i)) is := by
  induction is with
  | nil => rfl
  | cons i is ih => simp [parityOver, ih]

theorem parityOver_congr (f g : Nat → Bool) (is : List Nat) (h : ∀ i ∈ is, f i = g i) :
    parityOver f is = parityOver g is := by
  induction is with
  | nil => rfl
  | cons i is ih => simp [parityOver, h i, ih fun j hj => h j (List.mem_cons_of_mem _ hj)]

theorem parityOver_perm (f : Nat → Bool) {is js : List Nat} (h : is.Perm js) : parityOver f is = parityOver f js := by
  induction h with
  | nil => rfl
  | cons i _ ih => simp [parityOver, ih]
  | swap i j is => exact Bool.xor_left_comm _ _ _
  | trans _ _ ih1 ih2 => exact ih1.trans ih2

theorem parityOver_xor (f g : Nat → Bool) (is : List Nat) :
    parityOver (fun i => f i ^^ g i) is = (parityOver f is ^^ parityOver g is) := by
  induction is with
  | nil => rfl
  | cons i is ih =>
    simp only [parityOver, ih, Bool.xor_assoc, Bool.xor_left_comm (g i)]

/-- The first of `n + 1` positions apart. -/
theorem parityOver_range_succ (f : Nat → Bool) (n : Nat) :
    parityOver f (List.range (n + 1)) = (f 0 ^^ parityOver (fun i => f (i + 1)) (List.range n)) := by
  rw [List.range_succ_eq_map, parityOver, parityOver_map]

theorem parityOver_false (f : Nat → Bool) (is : List Nat) (h : ∀ i ∈ is, f i = false) : parityOver f is = false := by
  induction is with
  | nil => rfl
  | cons i is ih => simp [parityOver, h i, ih fun j hj => h j (List.mem_cons_of_mem _ hj)]

/-- The parity over one position of many. -/
theorem parityOver_single (f : Nat → Bool) (k n : Nat) (h : k < n) :
    parityOver (fun i => decide (i = k) && f i) (List.range n) = f k := by
  induction n with
  | zero => omega
  | succ n ih =>
    rw [List.range_succ, parityOver_append]
    by_cases hk : k = n
    · have before : parityOver (fun i => decide (i = k) && f i) (List.range n) = false :=
        parityOver_false _ _ fun i hi => by simp [show i ≠ k by have := List.mem_range.mp hi; omega]
      rw [before]
      simp [parityOver, hk]
    · simp [ih (by omega), parityOver, Ne.symm hk]

/-- A running exclusive-or is the one it began with and the parity of what it has passed. -/
theorem foldl_xor (f : Nat → Bool) (is : List Nat) :
    ∀ x, is.foldl (fun p i => p ^^ f i) x = (x ^^ parityOver f is) := by
  induction is with
  | nil => simp [parityOver]
  | cons i is ih => simp [parityOver, ih]

theorem oddOnes_eq {n : Nat} (x : BitVec n) : oddOnes x = parityOver x.getLsbD (List.range n) := by
  simp [oddOnes, foldl_xor]

theorem oddOnes_xor {n : Nat} (x y : BitVec n) : oddOnes (x ^^^ y) = (oddOnes x ^^ oddOnes y) := by
  rw [oddOnes_eq, oddOnes_eq, oddOnes_eq, ← parityOver_xor]
  exact parityOver_congr _ _ _ fun i _ => BitVec.getLsbD_xor

/-! ### The codeword -/

/-- The positions 1 to 38 are those of the data bits and the powers of two (R3). -/
theorem positions_perm :
    (List.range 39).Perm (0 :: ((List.range 32).map (fun n => dataPositions.getD n 0) ++ (List.range 6).map (2 ^ ·))) := by
  decide

theorem dataBitAt_dataPositions : ∀ n : Fin 32, dataBitAt (dataPositions.getD n.val 0) = some n := by decide

theorem dataBitAt_two_pow : ∀ k : Fin 6, dataBitAt (2 ^ k.val) = none := by decide

/-- Position by position, d0 to d31 stand where R3 puts them. -/
theorem codewordBit_data (w : StoredWord) (n : Fin 32) :
    codewordBit w (dataPositions.getD n.val 0) = w.data.getLsbD n.val := by
  rw [codewordBit, dataBitAt_dataPositions n]

/-- ck stands on position 2 to the power k (R3). -/
theorem codewordBit_check (w : StoredWord) (k : Fin 6) : codewordBit w (2 ^ k.val) = w.code.getLsbD k.val := by
  rw [codewordBit, dataBitAt_two_pow k]
  simp

/-- A parity over positions is that of the data bits on the positions selected and that of the check bits on them. -/
theorem positionParity_eq (w : StoredWord) (p : Nat → Bool) :
    positionParity w p =
      (parityOver (fun n => p (dataPositions.getD n 0) && w.data.getLsbD n) (List.range 32) ^^
        parityOver (fun k => p (2 ^ k) && w.code.getLsbD k) (List.range 6)) := by
  have step (x : Bool) (i : Nat) : (if (i ≠ 0 && p i) = true then x ^^ codewordBit w i else x) =
      (x ^^ (i ≠ 0 && (p i && codewordBit w i))) := by
    cases p i <;> by_cases h : i = 0 <;> simp [h]
  have data : ∀ n ∈ List.range 32,
      (decide (dataPositions.getD n 0 ≠ 0) && (p (dataPositions.getD n 0) && codewordBit w (dataPositions.getD n 0))) =
        (p (dataPositions.getD n 0) && w.data.getLsbD n) := by
    intro n hn
    have hpos : ∀ n : Fin 32, dataPositions.getD n.val 0 ≠ 0 := by decide
    rw [codewordBit_data w ⟨n, List.mem_range.mp hn⟩, decide_eq_true (hpos ⟨n, List.mem_range.mp hn⟩), Bool.true_and]
  have check : ∀ k ∈ List.range 6, (decide (2 ^ k ≠ 0) && (p (2 ^ k) && codewordBit w (2 ^ k))) =
      (p (2 ^ k) && w.code.getLsbD k) := by
    intro k hk
    rw [codewordBit_check w ⟨k, List.mem_range.mp hk⟩]
    simp
  simp only [positionParity, step, foldl_xor]
  rw [parityOver_perm _ positions_perm, parityOver, parityOver_append, parityOver_map, parityOver_map,
    parityOver_congr _ _ _ data, parityOver_congr _ _ _ check]
  simp

/-! ### The syndrome -/

/-- Bit k of an exclusive-or of position numbers is the parity of the set bits whose number has bit k set (R4). -/
theorem getLsbD_xorPositions (d : Word) (k : Nat) (hk : k < 6) (ps : List Nat) : ∀ i,
    (xorPositions d i ps).getLsbD k =
      parityOver (fun n => (ps.getD n 0).testBit k && d.getLsbD (i + n)) (List.range ps.length) := by
  induction ps with
  | nil => simp [xorPositions, parityOver]
  | cons p ps ih =>
    intro i
    rw [List.length_cons, parityOver_range_succ, xorPositions, BitVec.getLsbD_xor, ih]
    cases d.getLsbD i <;> simp [BitVec.getLsbD_ofNat, hk, Nat.add_assoc, Nat.add_comm 1, -BitVec.getLsbD_eq_getElem]

theorem xorPositions_xor (d e : Word) (ps : List Nat) : ∀ i,
    xorPositions (d ^^^ e) i ps = xorPositions d i ps ^^^ xorPositions e i ps := by
  induction ps with
  | nil => simp [xorPositions]
  | cons p ps ih =>
    intro i
    have bit : (if (d ^^^ e).getLsbD i then BitVec.ofNat 6 p else 0) =
        (if d.getLsbD i then BitVec.ofNat 6 p else 0) ^^^ (if e.getLsbD i then BitVec.ofNat 6 p else 0) := by
      rw [BitVec.getLsbD_xor]
      cases d.getLsbD i <;> cases e.getLsbD i <;> simp
    simp only [xorPositions, ih, bit]
    ac_rfl

theorem lowCode_xor (d e : Word) : lowCode (d ^^^ e) = lowCode d ^^^ lowCode e := xorPositions_xor d e _ 0

/-- Bit k of s is the parity of the positions whose number has bit k set, the check bit's own among them (R9). -/
theorem syndromeOf_bit (w : StoredWord) (k : Fin 6) :
    (syndromeOf w).s.getLsbD k.val = positionParity w fun i => i.testBit k.val := by
  have check : parityOver (fun j => (2 ^ j).testBit k.val && w.code.getLsbD j) (List.range 6) =
      w.code.getLsbD k.val := by
    simp only [Nat.testBit_two_pow]
    exact parityOver_single _ _ _ k.isLt
  rw [positionParity_eq, check]
  simp only [syndromeOf, lowCode, BitVec.getLsbD_xor, getLsbD_xorPositions w.data k.val k.isLt]
  simp [dataPositions]

/-- The parity result is the parity of all positions and c6 (R9). -/
theorem syndromeOf_parity (w : StoredWord) :
    (syndromeOf w).odd = (positionParity w (fun _ => true) ^^ w.code.getLsbD 6) := by
  rw [positionParity_eq]
  simp only [syndromeOf, oddOnes_eq, List.range_succ (n := 6), parityOver_append, parityOver, Bool.true_and,
    Bool.xor_false, Bool.xor_assoc]

/-- c6 makes the number of ones in the code even with the rest. -/
theorem oddOnes_withTop (b : Bool) (x : BitVec 6) :
    oddOnes ((if b then 0x40#7 else 0) ||| x.setWidth 7) = (b ^^ oddOnes x) := by
  revert b x
  decide +kernel

/-- An encoded word has syndrome number zero and an even parity result (R4, R5, R7). -/
theorem syndromeOf_encoded (d : Word) : syndromeOf (encoded d) = ⟨0, false⟩ := by
  have low : (checkCode d).setWidth 6 = lowCode d := by
    have h : ∀ (b : Bool) (x : BitVec 6), ((if b then 0x40#7 else 0) ||| x.setWidth 7).setWidth 6 = x := by
      decide +kernel
    exact h _ _
  have odd : oddOnes (checkCode d) = oddOnes d := by
    rw [checkCode, oddOnes_withTop]
    simp
  simp [syndromeOf, encoded, low, odd]

/-- A single error has its position for syndrome number and an odd parity result. -/
theorem syndromeOf_errorBit : ∀ k : Fin 39, syndromeOf (errorBit k) = ⟨BitVec.ofNat 6 (errorPosition k), true⟩ := by
  decide +kernel

/-- The syndrome of a changed word is that of the word changed by that of the change. -/
theorem syndromeOf_flip (w u : StoredWord) :
    syndromeOf (w.flip u) = ⟨(syndromeOf w).s ^^^ (syndromeOf u).s, (syndromeOf w).odd ^^ (syndromeOf u).odd⟩ := by
  simp only [syndromeOf, StoredWord.flip, lowCode_xor, oddOnes_xor, BitVec.setWidth_xor, Syndrome.mk.injEq]
  exact ⟨by ac_rfl, by simp only [Bool.xor_assoc, Bool.xor_left_comm (oddOnes u.data)]⟩

/-- Settles O3, position by position: both parities are taken apart into those of the data and of the check bits. -/
theorem syndromeOfStoredWord : Obligations.SyndromeOfStoredWord :=
  ⟨rfl, codewordBit_data, codewordBit_check, fun _ => rfl, syndromeOf_bit, syndromeOf_parity, syndromeOf_encoded,
    syndromeOf_errorBit, fun w u => by simp [syndromeOf_flip], fun _ _ => rfl⟩

/-! ### The decode -/

/-- A set mark decides the decode (R10). -/
theorem decode_marked (w : StoredWord) (h : w.mark = true) : decode w = ⟨.poisoned, w.data, w.code, none, none⟩ := by
  simp [decode, h]

/-- An odd parity result with a syndrome number that names a bit is CORRECTED (R11). -/
theorem decode_named (w : StoredWord) (b : ErrorBit) (hm : w.mark = false) (ho : (syndromeOf w).odd = true)
    (hb : namedBit (syndromeOf w).s.toNat = some b) :
    decode w = ⟨.corrected, restored w.data b, w.code, some (syndromeOf w), some b⟩ := by
  simp [decode, hm, ho, hb]

/-- An odd parity result with a syndrome number that names no bit is UNCORRECTABLE (R11). -/
theorem decode_unnamed (w : StoredWord) (hm : w.mark = false) (ho : (syndromeOf w).odd = true)
    (hb : namedBit (syndromeOf w).s.toNat = none) :
    decode w = ⟨.uncorrectable, w.data, w.code, some (syndromeOf w), none⟩ := by
  simp [decode, hm, ho, hb]

/-- An even parity result with a syndrome number that is not zero is UNCORRECTABLE (R11). -/
theorem decode_even (w : StoredWord) (hm : w.mark = false) (ho : (syndromeOf w).odd = false)
    (hs : (syndromeOf w).s ≠ 0) : decode w = ⟨.uncorrectable, w.data, w.code, some (syndromeOf w), none⟩ := by
  unfold decode
  rw [hm, ho, if_neg Bool.false_ne_true, if_neg Bool.false_ne_true, if_neg hs]

/-- Both zero is CLEAN (R11). -/
theorem decode_zero (w : StoredWord) (hm : w.mark = false) (ho : (syndromeOf w).odd = false)
    (hs : (syndromeOf w).s = 0) : decode w = ⟨.clean, w.data, w.code, none, none⟩ := by
  simp [decode, hm, ho, hs]

/-- Settles O4: only the row of the mark is POISONED. -/
theorem poisonMarkDecidesDecode : Obligations.PoisonMarkDecidesDecode := by
  refine fun w => ⟨decode_marked w, fun hm => ?_⟩
  rcases decode_cases w with ⟨hm', _⟩ | ⟨_, _, _, _, e⟩ | ⟨_, _, _, e⟩ | ⟨_, _, e⟩
  · simp [hm] at hm'
  all_goals simp [e]

/-! ### The bit a syndrome names -/

theorem namedBit_data : ∀ n : Fin 32, namedBit (dataPositions.getD n.val 0) = some (.data n) := by decide

theorem namedBit_check : ∀ k : Fin 7, k.val < 6 → namedBit (2 ^ k.val) = some (.check k) := by decide

/-- No position lies above 38. -/
theorem namedBit_above : ∀ s : BitVec 6, 39 ≤ s.toNat → namedBit s.toNat = none := by decide +kernel

/-- A single error is named by its position (R12). -/
theorem namedBit_error : ∀ k : Fin 39, namedBit (BitVec.ofNat 6 (errorPosition k)).toNat = some (errorName k) := by
  decide +kernel

theorem errorPosition_injective : ∀ j k : Fin 39, BitVec.ofNat 6 (errorPosition j) = BitVec.ofNat 6 (errorPosition k) →
    j = k := by
  decide +kernel

theorem errorBit_mark (k : Fin 39) : (errorBit k).mark = false := by
  unfold errorBit
  split <;> rfl

/-- The bit named is turned back (R12). -/
theorem restored_error (d : Word) (k : Fin 39) : restored (d ^^^ (errorBit k).data) (errorName k) = d := by
  by_cases h : k.val < 32 <;> simp [errorBit, errorName, restored, h]

/-- One flipped bit of an encoded word is corrected and named (R11, R12). -/
theorem decode_singleError (d : Word) (k : Fin 39) : decode ((encoded d).flip (errorBit k)) =
    ⟨.corrected, d, checkCode d ^^^ (errorBit k).code, some ⟨BitVec.ofNat 6 (errorPosition k), true⟩,
      some (errorName k)⟩ := by
  have hy : syndromeOf ((encoded d).flip (errorBit k)) = ⟨BitVec.ofNat 6 (errorPosition k), true⟩ := by
    simp [syndromeOf_flip, syndromeOf_encoded, syndromeOf_errorBit]
  have hm : ((encoded d).flip (errorBit k)).mark = false := by simp [StoredWord.flip, encoded, errorBit_mark]
  rw [decode_named _ (errorName k) hm (by rw [hy]) (by rw [hy]; exact namedBit_error k), hy]
  simp only [StoredWord.flip, encoded, restored_error]

/-- Two flipped bits of an encoded word are never miscorrected: the parity result is even, and two positions differ. -/
theorem decode_doubleError (d : Word) (j k : Fin 39) (h : j ≠ k) :
    (decode (((encoded d).flip (errorBit j)).flip (errorBit k))).outcome = .uncorrectable := by
  have hy : syndromeOf (((encoded d).flip (errorBit j)).flip (errorBit k)) =
      ⟨BitVec.ofNat 6 (errorPosition j) ^^^ BitVec.ofNat 6 (errorPosition k), false⟩ := by
    simp [syndromeOf_flip, syndromeOf_encoded, syndromeOf_errorBit]
  have hm : (((encoded d).flip (errorBit j)).flip (errorBit k)).mark = false := by
    simp [StoredWord.flip, encoded, errorBit_mark]
  rw [decode_even _ hm (by rw [hy])]
  rw [hy]
  exact fun e => h (errorPosition_injective j k (BitVec.xor_eq_zero_iff.mp e))

/-- Settles O5, row by row from the equations of the decode and the bit each syndrome number names. -/
theorem classificationOfErrors : Obligations.ClassificationOfErrors := by
  refine ⟨fun w hm => ⟨fun hs ho => decode_zero w hm ho hs, fun hs ho => ?_, fun n hn ho => ?_, fun k hk hs ho => ?_,
    fun hs ho => decode_even w hm ho hs, fun hs ho => decode_unnamed w hm ho (namedBit_above _ hs)⟩,
    decode_singleError, decode_doubleError⟩
  · exact decode_named w (.check 6) hm ho (by rw [hs]; rfl)
  · refine decode_named w (.data n) hm ho ?_
    rw [← namedBit_data n, List.getD_eq_getElem?_getD, hn, Option.getD_some]
  · refine decode_named w (.check k) hm ho ?_
    rw [hs, namedBit_check k hk]

end Sys2Proof.Machine
end

section
/-! The ends of the array operations: what a decode's report is by its outcome (R53, R63, R74, R119, R141), what a drain
stores and does to the transaction (R14 to R16, R32, R35, R51 to R55), and the grants that a system reset leaves to
finish (R8, R38, R75, R77, R90, R94, R132, R148). -/

namespace Sys2Proof.Machine

/-! ### Outcomes and the arrivals they make -/

theorem detected_clean (d : Decoded) (h : d.outcome = .clean) : d.outcome.detected = none := by
  rw [h]
  rfl

theorem detected_corrected (d : Decoded) (h : d.outcome = .corrected) : d.outcome.detected = some .corrected := by
  rw [h]
  rfl

/-- The decode's data is not to be used, and this is the kind of its detection. -/
def Decoded.Fails (d : Decoded) (kind : Detected) : Prop :=
  d.outcome = .uncorrectable ∧ kind = .uncorrectable ∨ d.outcome = .poisoned ∧ kind = .poisoned

theorem Decoded.Fails.detected {d : Decoded} {kind : Detected} (h : d.Fails kind) : d.outcome.detected = some kind := by
  rcases h with ⟨h, rfl⟩ | ⟨h, rfl⟩ <;> rw [h] <;> rfl

theorem Decoded.Fails.not_corrected {d : Decoded} {kind : Detected} (h : d.Fails kind) : kind ≠ .corrected := by
  rcases h with ⟨_, rfl⟩ | ⟨_, rfl⟩ <;> decide

theorem Decoded.Fails.not_good {d : Decoded} {kind : Detected} (h : d.Fails kind) : d.good = false := by
  rcases h with ⟨h, _⟩ | ⟨h, _⟩ <;> simp [Decoded.good, h]

/-- A merge with a word that cannot be read raises WRITE_MERGE_FAILED (R53). -/
theorem Decoded.Fails.mergeFault {d : Decoded} {kind : Detected} (h : d.Fails kind) :
    mergeFault kind = .writeMergeFailed := by
  rcases h with ⟨_, rfl⟩ | ⟨_, rfl⟩ <;> rfl

/-- A read of a word that cannot be read raises READ_UNCORRECTABLE (R63). -/
theorem Decoded.Fails.readFault {d : Decoded} {kind : Detected} (h : d.Fails kind) :
    readFault kind = .readUncorrectable := by
  rcases h with ⟨_, rfl⟩ | ⟨_, rfl⟩ <;> rfl

/-- A background detection of a word that cannot be read raises BACKGROUND_UNCORRECTABLE (R119, R141). -/
theorem Decoded.Fails.backgroundFault {d : Decoded} {kind : Detected} (h : d.Fails kind) :
    backgroundFault kind = .backgroundUncorrectable := by
  rcases h with ⟨_, rfl⟩ | ⟨_, rfl⟩ <;> rfl

theorem Decoded.good_of_usable (d : Decoded) (h : d.outcome = .clean ∨ d.outcome = .corrected) : d.good = true := by
  rcases h with h | h <;> simp [Decoded.good, h]

/-- The arrival of a word that cannot be read names no bit (R12, R94). -/
theorem arrivalOf_fails (w : StoredWord) (kind : Detected) (h : (decode w).Fails kind) (a : Nat) (k : Location)
    (source : Source) (repair : Repair) (faulted : Bool) :
    arrivalOf (decode w) kind a k source repair faulted =
      ⟨a, k, kind, none, (decode w).syndrome, source, repair, faulted⟩ := by
  have hb : (decode w).bit = none := by
    rcases h with ⟨h, _⟩ | ⟨h, _⟩
    · exact decode_uncorrectable w h
    · exact (decode_poisoned w h).1
  rw [arrivalOf, hb]

/-! ### Reports by outcome -/

theorem State.directReport_clean (s : State) (d : Decoded) (a : Nat) (k : Location) (source : Source)
    (repair : Detected → Repair) (fault : Detected → FaultSource) (h : d.outcome = .clean) :
    s.directReport d a k source repair fault = s := by
  rw [State.directReport, detected_clean d h]

theorem State.directReport_corrected (s : State) (d : Decoded) (a : Nat) (k : Location) (source : Source)
    (repair : Detected → Repair) (fault : Detected → FaultSource) (h : d.outcome = .corrected) :
    s.directReport d a k source repair fault =
      (s.arrive ⟨a, k, .corrected, d.bit, d.syndrome, source, repair .corrected, false⟩).occur (fault .corrected) := by
  rw [State.directReport, detected_corrected d h]
  rfl

theorem State.directReport_fails (s : State) (w : StoredWord) (a : Nat) (k : Location) (source : Source)
    (repair : Detected → Repair) (fault : Detected → FaultSource) (kind : Detected) (h : (decode w).Fails kind) :
    s.directReport (decode w) a k source repair fault =
      (s.arrive ⟨a, k, kind, none, (decode w).syndrome, source, repair kind, true⟩).occur (fault kind) := by
  rw [State.directReport, h.detected]
  simp [arrivalOf_fails w kind h, h.not_corrected]

/-- A foreground read that is CLEAN reports nothing. -/
theorem State.foregroundReport_clean (s : State) (d : Decoded) (a : Nat) (k : Location) (locked orphan : Bool)
    (h : d.outcome = .clean) : s.foregroundReport d a k locked orphan = s := by
  rw [State.foregroundReport, detected_clean d h]

/-- Once a system reset has come a foreground read's detection offers nothing and is reported with repair NONE (R90,
R94). -/
theorem State.foregroundReport_abandoned (s : State) (d : Decoded) (a : Nat) (k : Location) (locked : Bool)
    (kind : Detected) (h : d.outcome.detected = some kind) : s.foregroundReport d a k locked true =
      (s.arrive (arrivalOf d kind a k (if locked then .lockedRead else .read) .none
        (decide (kind ≠ .corrected)))).occur (readFault kind) := by
  rw [State.foregroundReport, h]
  simp [foregroundOffers, foregroundRepair]

theorem State.prefetchReport_clean (s : State) (d : Decoded) (a : Nat) (k : Location) (orphan : Bool)
    (h : d.outcome = .clean) : s.prefetchReport d a k orphan = s := by
  rw [State.prefetchReport, detected_clean d h]

/-- Once a system reset has come a prefetch offers nothing (R77). -/
theorem State.prefetchReport_corrected_abandoned (s : State) (d : Decoded) (a : Nat) (k : Location)
    (h : d.outcome = .corrected) : s.prefetchReport d a k true =
      (s.arrive ⟨a, k, .corrected, d.bit, d.syndrome, .prefetch, .none, false⟩).occur .corrected := by
  rw [State.prefetchReport, detected_corrected d h]
  rfl

/-- A prefetched word that cannot be read raises no fault until it is delivered (R74). -/
theorem State.prefetchReport_fails (s : State) (w : StoredWord) (a : Nat) (k : Location) (orphan : Bool)
    (kind : Detected) (h : (decode w).Fails kind) : s.prefetchReport (decode w) a k orphan =
      s.arrive ⟨a, k, kind, none, (decode w).syndrome, .prefetch, .none, false⟩ := by
  rw [State.prefetchReport, h.detected, ← arrivalOf_fails w kind h]
  cases kind with
  | corrected => exact absurd rfl h.not_corrected
  | uncorrectable => rfl
  | poisoned => rfl

/-- A scrub reports as a merge does, but that a word already POISONED is not faulted again (R141). -/
theorem State.scrubReport_direct (s : State) (d : Decoded) (a : Nat) (k : Location) (h : d.outcome ≠ .poisoned) :
    s.scrubReport d a k = s.directReport d a k .scrub scrubRepair backgroundFault := by
  unfold State.scrubReport
  split
  · contradiction
  all_goals rfl

theorem State.scrubReport_poisoned (s : State) (w : StoredWord) (a : Nat) (k : Location)
    (h : (decode w).outcome = .poisoned) :
    s.scrubReport (decode w) a k = s.arrive ⟨a, k, .poisoned, none, none, .scrub, .none, false⟩ := by
  obtain ⟨hb, hy⟩ := decode_poisoned w h
  rw [State.scrubReport, h]
  simp only [arrivalOf, hb, hy]

/-! ### Frames of the reports -/

theorem State.directReport_executing (s : State) (d : Decoded) (a : Nat) (k : Location) (source : Source)
    (repair : Detected → Repair) (fault : Detected → FaultSource) :
    (s.directReport d a k source repair fault).executing = s.executing := by
  unfold State.directReport
  split <;> simp

theorem State.scrubReport_executing (s : State) (d : Decoded) (a : Nat) (k : Location) :
    (s.scrubReport d a k).executing = s.executing := by
  unfold State.scrubReport
  split <;> simp [State.directReport_executing]

/-- Whether a SCRUB_STOP waits is seen from the command in execution. -/
theorem State.stopWaits_congr (s t : State) (h : t.executing = s.executing) : t.stopWaits = s.stopWaits := by
  rw [State.stopWaits, State.stopWaits, h]

/-- Where no SCRUB_STOP waits, the end of a SCRUB grant pauses the scrub in HALTED and does nothing else (R146). -/
theorem State.endScrubGrant_pause (s : State) (h : s.stopWaits = false) : s.endScrubGrant = s.pauseIfHalted := by
  rw [State.endScrubGrant, h, if_neg Bool.false_ne_true]

/-- Of the scrub record a pause reaches the run alone (R146). -/
theorem State.pauseIfHalted_scrub (s : State) :
    s.pauseIfHalted.scrub = { s.scrub with run := s.pauseIfHalted.scrub.run } := by
  simp only [State.pauseIfHalted]
  split
  · unfold Scrub.pause
    split <;> rfl
  · rfl

/-- Of the scrub record an occurrence reaches the run alone. -/
theorem State.occur_scrub (s : State) (src : FaultSource) :
    (s.occur src).scrub = { s.scrub with run := (s.occur src).scrub.run } :=
  State.pauseIfHalted_scrub _

/-- Of the scrub record an arrival reaches the run alone. -/
theorem State.arrive_scrub (s : State) (y : Arrival) :
    (s.arrive y).scrub = { s.scrub with run := (s.arrive y).scrub.run } := by
  have examined (t : State) (a : Nat) : (t.examine a).scrub = { t.scrub with run := (t.examine a).scrub.run } := by
    unfold State.examine
    split
    · rfl
    · split
      · split
        · rfl
        · exact t.occur_scrub _
      · rfl
  unfold State.arrive
  split
  · exact s.occur_scrub _
  · exact examined _ _

/-! ### The end of a drain -/

/-- Data bit i belongs to lane i / 8. -/
theorem getLsbD_laneMask : ∀ (lanes : Lanes) (i : Fin 32), (laneMask lanes).getLsbD i.val = lanes.getLsbD (i.val / 8) := by
  decide +kernel

/-- A merge takes the enabled lanes from the new word and the others from the old one (R15). -/
theorem getLsbD_mergeLanes (lanes : Lanes) (new old : Word) (i : Nat) (h : i < 32) :
    (mergeLanes lanes new old).getLsbD i = if lanes.getLsbD (i / 8) then new.getLsbD i else old.getLsbD i := by
  simp only [mergeLanes, BitVec.getLsbD_or, BitVec.getLsbD_and, BitVec.getLsbD_not, getLsbD_laneMask lanes ⟨i, h⟩, h]
  cases lanes.getLsbD (i / 8) <;> simp

/-- A POISON entry's drain marks the word it reads (R16, R51). -/
theorem drain_poison (e : Entry) (w : StoredWord) (h : e.kind = .poison) :
    drainDecode e w = none ∧ drainFailed e w = false ∧ drainWord e w = ⟨w.data, w.code, true⟩ := by
  simp [drainDecode, drainFailed, drainWord, h, marked]

/-- A full entry's drain writes its data without a read (R14). -/
theorem drain_full (e : Entry) (w : StoredWord) (hk : e.kind ≠ .poison) (hl : e.lanes = .full) :
    drainDecode e w = none ∧ drainFailed e w = false ∧ drainWord e w = encoded e.data := by
  simp [drainDecode, drainFailed, drainWord, hk, hl]

/-- A partial entry's drain reads the word, and merges where its data can be used (R14, R15). -/
theorem drain_usable (e : Entry) (w : StoredWord) (hk : e.kind ≠ .poison) (hl : e.lanes ≠ .full)
    (h : (decode w).outcome = .clean ∨ (decode w).outcome = .corrected) :
    drainDecode e w = some (decode w) ∧ drainFailed e w = false ∧
      drainWord e w = encoded (mergeLanes e.lanes e.data (decode w).data) := by
  simp [drainDecode, drainFailed, drainWord, hk, hl, Decoded.good_of_usable _ h]

/-- A partial entry's drain marks a word whose data cannot be used, and has failed (R16). -/
theorem drain_fails (e : Entry) (w : StoredWord) (hk : e.kind ≠ .poison) (hl : e.lanes ≠ .full) (kind : Detected)
    (h : (decode w).Fails kind) : drainDecode e w = some (decode w) ∧ drainFailed e w = true ∧
      drainWord e w = ⟨w.data, w.code, true⟩ := by
  simp [drainDecode, drainFailed, drainWord, hk, hl, h.not_good, marked]

/-- The drain's end in general: both locations hold the drain's word, its decode is reported, and the head leaves. -/
theorem exec_drainEnd (s : State) (e : Entry) (rest : List Entry) (loc : Nat) (k : Location) (dual : Option Nat)
    (orphan : Bool) (u : Upset) (hm : s.mem.wf = true) (hq : s.queue = e :: rest)
    (hg : s.grant = some ⟨.drain loc k dual, orphan⟩) :
    ∃ m, exec (.drainEnd u) s =
        .next (((({ s with grant := none, mem := m } : State).mergeReport (drainDecode e (s.found loc u)) e.address
          k).headDone rest (e.waiter && drainFailed e (s.found loc u))).settle) ∧
      HoldsBoth m s.mem loc dual (drainWord e (s.found loc u)) := by
  have he : exec (.drainEnd u) s =
      .next ((((((s.opened loc u).store loc (drainWord e (s.found loc u))).storeDual dual
        (drainWord e (s.found loc u))).mergeReport (drainDecode e (s.found loc u)) e.address k).headDone rest
          (e.waiter && drainFailed e (s.found loc u))).settle) := by
    simp only [exec, execDrainEnd, hg, hq, State.opened_read s loc u hm]
  exact ⟨_, he, holdsBoth_written s.mem loc u dual (drainWord e (s.found loc u)) hm⟩

/-- The head leaves a state whose transaction is that of an earlier one. -/
theorem State.headDone_eq (s t : State) (rest : List Entry) (failed : Bool) (h : t.txn = s.txn) :
    t.headDone rest failed = { t with queue := rest, txn := s.txn.map fun y => y.headLeft failed } := by
  rw [State.headDone, h]

/-- What the head's result does to a write (R32, R35). -/
theorem Transaction.headLeft_write (req : Request) (marks : Option (List Bool)) (posting : PostingMode)
    (awaited : List Nat) (f b : Bool) : Transaction.headLeft ⟨req, marks, .write posting awaited f⟩ b =
      ⟨req, marks, .write posting (Machine.headLeft awaited) (f || b)⟩ := rfl

/-- A wait that is not for an entry of the queue goes on. -/
theorem BeatWait.headLeft_other (v : BeatWait) (h : ∀ n, v ≠ .onEntry n) : v.headLeft = v := by
  cases v with
  | onEntry n => exact absurd rfl (h n)
  | _ => rfl

/-- Settles O17: the drain's end in general, by the entry's kind and lanes and the decode's outcome. -/
theorem drainEnds : Obligations.DrainEnds := by
  refine ⟨fun lanes new old i => getLsbD_mergeLanes lanes new old i, fun req marks posting aw f b i v => ?_,
    fun s e rest loc k dual o u hm hq hg => ?_⟩
  · refine ⟨⟨headLeft aw, Transaction.headLeft_write .., mem_headLeft aw⟩, rfl, fun _ => rfl, fun h => ?_⟩
    show (⟨req, marks, .read i v.headLeft⟩ : Transaction) = _
    rw [v.headLeft_other h]
  · obtain ⟨m, he, hm'⟩ := exec_drainEnd s e rest loc k dual o u hm hq hg
    have kind_of_merge (h : (e.kind = .busWrite ∨ e.kind = .lockedWrite) ∧ e.lanes ≠ .full) : e.kind ≠ .poison := by
      rcases h.1 with h | h <;> simp [h]
    refine ⟨fun hp => ⟨m, ?_⟩, fun hp hl => ⟨m, ?_⟩, fun hmg hd => ⟨m, ?_⟩, fun hmg hd => ⟨m, ?_⟩,
      fun kind hmg hd => ⟨m, ?_⟩⟩
    · obtain ⟨h1, h2, h3⟩ := drain_poison e (s.found loc u) hp
      rw [h1, h2] at he
      exact ⟨he, h3 ▸ hm'⟩
    · obtain ⟨h1, h2, h3⟩ := drain_full e (s.found loc u) hp hl
      rw [h1, h2] at he
      exact ⟨he, h3 ▸ hm'⟩
    · obtain ⟨h1, h2, h3⟩ := drain_usable e (s.found loc u) (kind_of_merge hmg) hmg.2 (.inl hd)
      rw [h1, h2, State.mergeReport, State.directReport_clean _ _ _ _ _ _ _ hd] at he
      exact ⟨he, h3 ▸ hm'⟩
    · obtain ⟨h1, h2, h3⟩ := drain_usable e (s.found loc u) (kind_of_merge hmg) hmg.2 (.inr hd)
      rw [h1, h2, State.mergeReport, State.directReport_corrected _ _ _ _ _ _ _ hd,
        State.headDone_eq s _ _ _ (by simp)] at he
      exact ⟨he, h3 ▸ hm'⟩
    · have hf : (decode (s.found loc u)).Fails kind := hd
      obtain ⟨h1, h2, h3⟩ := drain_fails e (s.found loc u) (kind_of_merge hmg) hmg.2 kind hf
      rw [h1, h2, State.mergeReport, State.directReport_fails _ _ _ _ _ _ _ _ hf, mergeRepair, if_neg hf.not_corrected,
        hf.mergeFault, State.headDone_eq s _ _ _ (by simp)] at he
      exact ⟨he, h3 ▸ hm'⟩

/-! ### Grants that a system reset leaves to finish -/

/-- A read that a reset has abandoned is reported and answers nothing (R38, R90). -/
theorem exec_foreground_abandoned (s : State) (a loc : Nat) (k : Location) (locked : Bool) (u : Upset)
    (hm : s.mem.wf = true) (hg : s.grant = some ⟨.foreground a loc k locked, true⟩) :
    exec (if locked then .lockedReadDecode u else .foregroundRead u) s =
      .next ((s.opened loc u).foregroundReport (decode (s.found loc u)) a k locked true).settle := by
  cases locked
  · simp [exec, execForegroundRead, hg, State.opened_read s loc u hm]
  · simp [exec, execLockedReadDecode, hg, State.opened_read s loc u hm]

/-- A prefetch that a reset has abandoned is reported and keeps nothing (R77). -/
theorem exec_prefetch_abandoned (s : State) (entry : Option (Fin 2)) (a loc : Nat) (k : Location) (u : Upset)
    (hm : s.mem.wf = true) (hg : s.grant = some ⟨.prefetch entry a loc k, true⟩) :
    exec (.prefetchRead u) s = .next ((s.opened loc u).prefetchReport (decode (s.found loc u)) a k true).settle := by
  simp [exec, execPrefetchRead, hg, State.opened_read s loc u hm]

/-- A migration's READ that a reset has abandoned is reported and holds nothing (R132). -/
theorem exec_migrationRead_abandoned (s : State) (a loc : Nat) (k : Location) (u : Upset)
    (hm : s.mem.wf = true) (hg : s.grant = some ⟨.migrationRead a loc k, true⟩) :
    exec (.migrationRead u) s = .next ((s.opened loc u).directReport (decode (s.found loc u)) a k .migration
      (fun _ => .moved) backgroundFault).settle := by
  simp [exec, execMigrationRead, hg, State.opened_read s loc u hm]

/-- A migration's WRITE that a reset has abandoned is made (R132). -/
theorem exec_migrationWrite_abandoned (s : State) (loc : Nat) (w : StoredWord)
    (hg : s.grant = some ⟨.migrationWrite loc w, true⟩) :
    exec .migrationWrite s = .next ({ s with grant := none, mem := s.mem.write loc w } : State).settle := by
  simp [exec, execMigrationWrite, hg, State.store]

/-- A migration's VERIFY that a reset has abandoned still compares (R132). -/
theorem exec_migrationVerify_abandoned (s : State) (n : Fin 8) (loc : Nat) (w : StoredWord) (u : Upset)
    (hm : s.mem.wf = true) (hg : s.grant = some ⟨.migrationVerify n loc w, true⟩) :
    exec (.migrationVerify u) s = .next ((s.opened loc u).endOrphanVerify n (s.found loc u = w)).settle := by
  simp [exec, execMigrationVerify, hg, State.opened_read s loc u hm]

theorem SpareEntry.retiredIfFree_eq (e : SpareEntry) : e.retiredIfFree = if e = .free then .retired else e := by
  cases e <;> rfl

/-- A scrub's word in general: the location holds the scrubbed word, its decode is reported while the grant is still in
progress, and only a grant of the present run moves the cursors on (R141, R142, R148). -/
theorem exec_scrubWord (s : State) (a loc : Nat) (k : Location) (orphan : Bool) (u : Upset) (hm : s.mem.wf = true)
    (hg : s.grant = some ⟨.scrub a loc k, orphan⟩) :
    ∃ m, exec (.scrubWord u) s =
        (let t := ({ s with mem := m } : State).scrubReport (decode (s.found loc u)) a k
        .next (({ (if orphan then t else t.advanceScrub) with grant := none } : State).endScrubGrant).settle) ∧
      Holds m s.mem loc (scrubbedWord (s.found loc u)) := by
  refine ⟨_, ?_, holds_scrubbed s loc u (scrubbedWord (s.found loc u)) hm⟩
  have hr : (s.mem.disturbed loc u).read loc = s.found loc u := State.opened_read s loc u hm
  simp only [exec, execScrubWord, hg, hr]

/-- A scrub's word that a reset has abandoned is scrubbed and reported, and the cursors are kept (R148). -/
theorem exec_scrubWord_abandoned (s : State) (a loc : Nat) (k : Location) (u : Upset) (hm : s.mem.wf = true)
    (hg : s.grant = some ⟨.scrub a loc k, true⟩) (hw : s.stopWaits = false) :
    ∃ m, exec (.scrubWord u) s =
        .next (({ ({ s with mem := m } : State).scrubReport (decode (s.found loc u)) a k with
          grant := none } : State).pauseIfHalted).settle ∧
      Holds m s.mem loc (scrubbedWord (s.found loc u)) := by
  obtain ⟨m, he, hh⟩ := exec_scrubWord s a loc k true u hm hg
  have no_stop : ({ ({ s with mem := m } : State).scrubReport (decode (s.found loc u)) a k with
      grant := none } : State).stopWaits = false :=
    (State.stopWaits_congr s _ (State.scrubReport_executing { s with mem := m } _ _ _)).trans hw
  refine ⟨m, ?_, hh⟩
  rw [← State.endScrubGrant_pause _ no_stop]
  exact he

/-- A read's detection once a reset has come: nothing is offered and repair is NONE. -/
theorem abandoned_foreground (s : State) (a loc : Nat) (k : Location) (locked : Bool) (u : Upset)
    (hm : s.mem.wf = true) (hg : s.grant = some ⟨.foreground a loc k locked, true⟩) :
    let c : Instr := if locked then .lockedReadDecode u else .foregroundRead u
    let src : Source := if locked then .lockedRead else .read
    let d := decode (s.found loc u)
    (d.outcome = .clean → exec c s = .next (s.opened loc u).settle) ∧
    (d.outcome = .corrected → exec c s = .next (((s.opened loc u).arrive
      ⟨a, k, .corrected, d.bit, d.syndrome, src, .none, false⟩).occur .corrected).settle) ∧
    ∀ kind, d.Fails kind → exec c s = .next (((s.opened loc u).arrive
      ⟨a, k, kind, none, d.syndrome, src, .none, true⟩).occur .readUncorrectable).settle := by
  intro c src d
  have he : exec c s = _ := exec_foreground_abandoned s a loc k locked u hm hg
  refine ⟨fun h => ?_, fun h => ?_, fun kind h => ?_⟩
  · rw [he, State.foregroundReport_clean _ _ _ _ _ _ h]
  · rw [he, State.foregroundReport_abandoned _ _ _ _ _ _ (detected_corrected _ h)]
    rfl
  · rw [he, State.foregroundReport_abandoned _ _ _ _ _ _ h.detected, arrivalOf_fails _ _ h, h.readFault,
      decide_eq_true h.not_corrected]

/-- A prefetch's detection once a reset has come. -/
theorem abandoned_prefetch (s : State) (a loc : Nat) (k : Location) (u : Upset)
    (hm : s.mem.wf = true) (hg : s.grant = some ⟨.prefetch none a loc k, true⟩) :
    let d := decode (s.found loc u)
    (d.outcome = .clean → exec (.prefetchRead u) s = .next (s.opened loc u).settle) ∧
    (d.outcome = .corrected → exec (.prefetchRead u) s = .next (((s.opened loc u).arrive
      ⟨a, k, .corrected, d.bit, d.syndrome, .prefetch, .none, false⟩).occur .corrected).settle) ∧
    ∀ kind, d.Fails kind → exec (.prefetchRead u) s = .next ((s.opened loc u).arrive
      ⟨a, k, kind, none, d.syndrome, .prefetch, .none, false⟩).settle := by
  intro d
  rw [exec_prefetch_abandoned s none a loc k u hm hg]
  refine ⟨fun h => ?_, fun h => ?_, fun kind h => ?_⟩
  · rw [State.prefetchReport_clean _ _ _ _ _ h]
  · rw [State.prefetchReport_corrected_abandoned _ _ _ _ h]
  · rw [State.prefetchReport_fails _ _ _ _ _ _ h]

/-- A migration READ's detection once a reset has come. -/
theorem abandoned_migrationRead (s : State) (a loc : Nat) (k : Location) (u : Upset)
    (hm : s.mem.wf = true) (hg : s.grant = some ⟨.migrationRead a loc k, true⟩) :
    let d := decode (s.found loc u)
    (d.outcome = .clean → exec (.migrationRead u) s = .next (s.opened loc u).settle) ∧
    (d.outcome = .corrected → exec (.migrationRead u) s = .next (((s.opened loc u).arrive
      ⟨a, k, .corrected, d.bit, d.syndrome, .migration, .moved, false⟩).occur .corrected).settle) ∧
    ∀ kind, d.Fails kind → exec (.migrationRead u) s = .next (((s.opened loc u).arrive
      ⟨a, k, kind, none, d.syndrome, .migration, .moved, true⟩).occur .backgroundUncorrectable).settle := by
  intro d
  rw [exec_migrationRead_abandoned s a loc k u hm hg]
  refine ⟨fun h => ?_, fun h => ?_, fun kind h => ?_⟩
  · rw [State.directReport_clean _ _ _ _ _ _ _ h]
  · rw [State.directReport_corrected _ _ _ _ _ _ _ h]
    rfl
  · rw [State.directReport_fails _ _ _ _ _ _ _ _ h, h.backgroundFault]

/-- A VERIFY's comparison once a reset has come (R132). -/
theorem abandoned_migrationVerify (s : State) (n : Fin 8) (loc : Nat) (held : StoredWord) (u : Upset)
    (hm : s.mem.wf = true) (hg : s.grant = some ⟨.migrationVerify n loc held, true⟩) :
    (s.found loc u = held → exec (.migrationVerify u) s = .next (s.opened loc u).settle) ∧
    (s.found loc u ≠ held → exec (.migrationVerify u) s = .next (({ s.opened loc u with
      spareMap := s.spareMap.set n (if s.spareMap.get n = .free then .retired else s.spareMap.get n) } : State).occur
        .migrationFailed).settle) := by
  rw [exec_migrationVerify_abandoned s n loc held u hm hg, ← SpareEntry.retiredIfFree_eq]
  refine ⟨fun h => ?_, fun h => ?_⟩
  · rw [decide_eq_true h]
    rfl
  · rw [decide_eq_false h]
    rfl

/-- A scrub's word once a reset has come (R148). -/
theorem abandoned_scrub (s : State) (a loc : Nat) (k : Location) (u : Upset) (hm : s.mem.wf = true)
    (hg : s.grant = some ⟨.scrub a loc k, true⟩) (hw : s.stopWaits = false) :
    let w := s.found loc u
    let d := decode w
    let ends (x : State) : State := ({ x with grant := none } : State).pauseIfHalted
    ∃ m, ((d.outcome = .clean → exec (.scrubWord u) s = .next (ends { s with mem := m }).settle ∧
        Holds m s.mem loc w) ∧
      (d.outcome = .corrected → exec (.scrubWord u) s = .next (ends ((({ s with mem := m } : State).arrive
          ⟨a, k, .corrected, d.bit, d.syndrome, .scrub, .direct, false⟩).occur .corrected)).settle ∧
        Holds m s.mem loc (encoded d.data)) ∧
      (d.outcome = .uncorrectable → exec (.scrubWord u) s = .next (ends ((({ s with mem := m } : State).arrive
          ⟨a, k, .uncorrectable, none, d.syndrome, .scrub, .none, true⟩).occur .backgroundUncorrectable)).settle ∧
        Holds m s.mem loc ⟨w.data, w.code, true⟩) ∧
      (d.outcome = .poisoned → exec (.scrubWord u) s = .next (ends (({ s with mem := m } : State).arrive
          ⟨a, k, .poisoned, none, none, .scrub, .none, false⟩)).settle ∧ Holds m s.mem loc w)) := by
  intro w d ends
  obtain ⟨m, he, hh⟩ := exec_scrubWord_abandoned s a loc k u hm hg hw
  refine ⟨m, fun h => ?_, fun h => ?_, fun h => ?_, fun h => ?_⟩ <;> rw [scrubbedWord, h] at hh <;>
    refine ⟨?_, hh⟩ <;> rw [he]
  · rw [State.scrubReport_direct _ _ _ _ (ne_of_eq_of_ne h (by decide)), State.directReport_clean _ _ _ _ _ _ _ h]
  · rw [State.scrubReport_direct _ _ _ _ (ne_of_eq_of_ne h (by decide)), State.directReport_corrected _ _ _ _ _ _ _ h]
    rfl
  · have hf : (decode w).Fails .uncorrectable := .inl ⟨h, rfl⟩
    rw [State.scrubReport_direct _ _ _ _ (ne_of_eq_of_ne h (by decide)), State.directReport_fails _ _ _ _ _ _ _ _ hf]
    rfl
  · rw [State.scrubReport_poisoned _ _ _ _ h]

/-- Settles O16: each kind of grant by the outcome of its decode or comparison. -/
theorem abandonedGrantFinished : Obligations.AbandonedGrantFinished := by
  intro s a loc k u hm w d r corrected failed
  refine ⟨fun locked hg => abandoned_foreground s a loc k locked u hm hg, fun hg => abandoned_prefetch s a loc k u hm hg,
    fun hg => abandoned_migrationRead s a loc k u hm hg, fun held hg => ?_,
    fun n held hg => abandoned_migrationVerify s n loc held u hm hg, fun hg hw => ?_⟩
  · refine ⟨_, exec_migrationWrite_abandoned s loc held hg, Memory.read_write_same _ _ _ hm, fun l hl => ?_⟩
    exact Memory.read_write_other _ _ _ _ (Ne.symm hl)
  · obtain ⟨m, hclean, hcorrected, hbad, hpoisoned⟩ := abandoned_scrub s a loc k u hm hg hw
    exact ⟨fun h => ⟨m, hclean h⟩, fun h => ⟨m, hcorrected h⟩, fun h => ⟨m, hbad h⟩, fun h => ⟨m, hpoisoned h⟩,
      fun x src y => ⟨x.occur_scrub src, x.arrive_scrub y, State.pauseIfHalted_scrub _⟩⟩

end Sys2Proof.Machine
end

section
/-! Translation and what a grant names (R2, R52, R60, R61, R65, R119 to R121, R126). -/

namespace Sys2Proof.Machine

/-! ### The slots of a line -/

theorem activeSlot_some (map : PerSlot SpareEntry) (line : Nat) (n : Fin 8) (h : activeSlot map line = some n) :
    ∃ origin, map.get n = .active line origin := by
  have hn := List.find?_some h
  split at hn
  · rename_i l origin he
    rw [he, eq_of_beq hn]
    exact ⟨origin, rfl⟩
  · cases hn

theorem activeSlot_none (map : PerSlot SpareEntry) (line : Nat) (h : activeSlot map line = none) (n : Fin 8)
    (origin : Origin) : map.get n ≠ .active line origin := by
  intro hn
  have := List.find?_eq_none.mp h n (mem_allSlots n)
  simp [hn] at this

/-- The one slot ACTIVE for a line is the one found (R60). -/
theorem activeSlot_of_unique (map : PerSlot SpareEntry) (line : Nat) (n : Fin 8) (origin : Origin)
    (hn : map.get n = .active line origin) (hu : ∀ k o, k ≠ n → map.get k ≠ .active line o) :
    activeSlot map line = some n := by
  cases h : activeSlot map line with
  | none => exact absurd hn (activeSlot_none map line h n origin)
  | some k =>
    obtain ⟨o, ho⟩ := activeSlot_some map line k h
    by_cases hk : k = n
    · rw [hk]
    · exact absurd ho (hu k o hk)

theorem activeSlot_of_none (map : PerSlot SpareEntry) (line : Nat) (h : ∀ n o, map.get n ≠ .active line o) :
    activeSlot map line = none := by
  cases hs : activeSlot map line with
  | none => rfl
  | some n =>
    obtain ⟨o, ho⟩ := activeSlot_some map line n hs
    exact absurd ho (h n o)

theorem copyingSlot_some (map : PerSlot SpareEntry) (line cursor : Nat) (n : Fin 8)
    (h : copyingSlot map line = some (n, cursor)) : ∃ origin previous, map.get n = .copying line cursor origin previous := by
  obtain ⟨k, _, hk⟩ := List.exists_of_findSome?_eq_some h
  split at hk
  · rename_i l c origin previous he
    split at hk
    · rename_i hl
      simp only [Option.some.injEq, Prod.mk.injEq] at hk
      obtain ⟨rfl, rfl⟩ := hk
      exact ⟨origin, previous, hl ▸ he⟩
    · cases hk
  · cases hk

theorem copyingSlot_none (map : PerSlot SpareEntry) (line : Nat) (h : copyingSlot map line = none) (n : Fin 8)
    (cursor : Nat) (origin : Origin) (previous : Option (Fin 8)) :
    map.get n ≠ .copying line cursor origin previous := by
  intro hn
  have := List.findSome?_eq_none_iff.mp h n (mem_allSlots n)
  simp [hn] at this

/-- The one slot COPYING a line is the one found (R126). -/
theorem copyingSlot_of_unique (map : PerSlot SpareEntry) (line cursor : Nat) (n : Fin 8) (origin : Origin)
    (previous : Option (Fin 8)) (hn : map.get n = .copying line cursor origin previous)
    (hu : ∀ k c o q, k ≠ n → map.get k ≠ .copying line c o q) : copyingSlot map line = some (n, cursor) := by
  cases h : copyingSlot map line with
  | none => exact absurd hn (copyingSlot_none map line h n cursor origin previous)
  | some p =>
    obtain ⟨k, c⟩ := p
    obtain ⟨o, q, hk⟩ := copyingSlot_some map line c k h
    by_cases e : k = n
    · subst e
      simp only [hn, SpareEntry.copying.injEq] at hk
      rw [hk.2.1]
    · exact absurd hk (hu k c o q e)

theorem copyingSlot_of_none (map : PerSlot SpareEntry) (line : Nat)
    (h : ∀ n c o q, map.get n ≠ .copying line c o q) : copyingSlot map line = none := by
  cases hs : copyingSlot map line with
  | none => rfl
  | some p =>
    obtain ⟨o, q, hk⟩ := copyingSlot_some map line p.2 p.1 hs
    exact absurd hk (h p.1 p.2 o q)

/-! ### Translation -/

/-- The word of the ACTIVE slot (R60). -/
theorem State.translate_active (s : State) (a : Nat) (n : Fin 8) (h : activeSlot s.spareMap (a / 8) = some n) :
    s.translate a = (s.straps.populated - 64 + 8 * n.val + a % 8, .slot n) := by
  rw [State.translate, lineOf, h]
  rfl

/-- The word address itself where no slot is ACTIVE for the line (R60). -/
theorem State.translate_original (s : State) (a : Nat) (h : activeSlot s.spareMap (a / 8) = none) :
    s.translate a = (a, .original) := by
  rw [State.translate, lineOf, h]

/-- The second location of a drain while the line is in COPYING (R52, R126). -/
theorem State.dualOf_copying (s : State) (a cursor : Nat) (n : Fin 8)
    (h : copyingSlot s.spareMap (a / 8) = some (n, cursor)) :
    s.dualOf a = if a % 8 < cursor then some (s.straps.populated - 64 + 8 * n.val + a % 8) else none := by
  rw [State.dualOf, lineOf, h]
  rfl

theorem State.dualOf_none (s : State) (a : Nat) (h : copyingSlot s.spareMap (a / 8) = none) : s.dualOf a = none := by
  rw [State.dualOf, lineOf, h]

/-! ### Operations -/

/-- A FOREGROUND request is a read beat's that waits for the array, or a locked read's (R65). -/
theorem State.foregroundWord_some (s : State) (a : Nat) (h : s.foregroundWord = some a) :
    ∃ req marks i, s.txn = some ⟨req, marks, .read i .onArray⟩ ∧ a = req.address.toNat + i ∨
      s.txn = some ⟨req, marks, .read i .onLock⟩ ∧ a = req.address.toNat + i := by
  unfold State.foregroundWord at h
  split at h
  · rename_i req marks i ht
    exact ⟨req, marks, i, .inl ⟨ht, (Option.some.inj h).symm⟩⟩
  · rename_i req marks i ht
    split at h
    · exact ⟨req, marks, i, .inr ⟨ht, (Option.some.inj h).symm⟩⟩
    · cases h
  · cases h

/-- What a copy step's grant names, by the step that is due (R119 to R121). -/
theorem State.migrationOp_eq (s : State) (m : Migration) (line cursor : Nat) (origin : Origin)
    (previous : Option (Fin 8)) (hm : s.migration = some m)
    (hc : s.spareMap.get m.slot = .copying line cursor origin previous) :
    s.migrationOp = some (match m.stepDue with
      | .read => .migrationRead (8 * line + cursor) (s.sourceLocation m.source line cursor) m.source
      | .write => .migrationWrite (s.straps.slotBase m.slot + cursor) (m.held.getD .zero)
      | .verify => .migrationVerify m.slot (s.straps.slotBase m.slot + cursor) (m.held.getD .zero)) := by
  simp only [State.migrationOp, hm, hc]
  cases m.stepDue <;> rfl

/-- Settles O24: the translation from the slots of a line, and each class's operation by its own definition. -/
theorem grantNamesLocation : Obligations.GrantNamesLocation := by
  intro s
  refine ⟨fun a => ⟨?_, fun h => ?_, fun n cursor origin previous hn hu => ?_, fun h => ?_⟩, ⟨rfl, rfl, rfl⟩,
    fun a req marks p hw ht => ?_, s.foregroundWord_some, fun e rest hq => ?_, fun loc b w he => ?_, rfl,
    fun n line cursor origin previous source held hc => ⟨fun h hm => ?_, fun hm => ?_, fun hm => ?_⟩,
    fun i a hp => ?_, rfl⟩
  · rintro n _ origin hn rfl hu
    exact s.translate_active a n (activeSlot_of_unique _ _ n origin hn hu)
  · exact s.translate_original a (activeSlot_of_none _ _ h)
  · exact s.dualOf_copying a cursor n (copyingSlot_of_unique _ _ cursor n origin previous hn hu)
  · exact s.dualOf_none a (copyingSlot_of_none _ _ h)
  · simp [State.grantOp, hw, State.lockedTransaction, ht]
  · simp [State.grantOp, hq, headDraining]
  · simp [State.grantOp, State.inspected, he]
  · rw [State.grantOp, s.migrationOp_eq _ line cursor origin previous hm hc]
    cases source <;> rfl
  · rw [State.grantOp, s.migrationOp_eq _ line cursor origin previous hm hc]
    rfl
  · rw [State.grantOp, s.migrationOp_eq _ line cursor origin previous hm hc]
    rfl
  · simp [State.grantOp, hp]

end Sys2Proof.Machine
end

section
/-! The system reset, block by block (R8, R38, R58, R59, R77, R112, R132, R134, R160). -/

namespace Sys2Proof.Machine

/-- A fill is to run where PRESERVE is clear, or the fill is FILLING or already due (R134). -/
theorem State.fillToRun_iff (s : State) :
    s.fillToRun = true ↔ s.straps.preserve = false ∨ s.fill.filling = true ∨ s.fill.due = true := by
  simp [State.fillToRun, or_assoc]

/-- Where a fill is to run it begins at once when the array is free (R134). -/
theorem State.resetFill_free (s : State) (h : s.fillToRun = true) (hg : s.grant = none) :
    s.resetFill = ⟨true, 0, false⟩ := by
  simp [State.resetFill, h, hg]

/-- Where a fill is to run it is due after the operation in progress (R134). -/
theorem State.resetFill_busy (s : State) (h : s.fillToRun = true) (hg : s.grant ≠ none) :
    s.resetFill = { s.fill with due := true } := by
  simp [State.resetFill, h, hg]

/-- Where no fill is to run the fill is as it was. -/
theorem State.resetFill_kept (s : State) (h : s.fillToRun = false) : s.resetFill = s.fill := by
  simp [State.resetFill, h]

/-- A grant in progress is left to finish (R8). -/
theorem orphaned_other (g : Grant) (h : ∀ e a loc k, g.op ≠ .prefetch e a loc k) :
    orphaned (some g) = some ⟨g.op, true⟩ := by
  obtain ⟨op, orphan⟩ := g
  cases op with
  | prefetch e a loc k => exact absurd rfl (h e a loc k)
  | foreground | drain | service | fill | migrationRead | migrationWrite | migrationVerify | scrub => rfl

/-- A PREFETCH grant in progress is left to finish without its entry (R77). -/
theorem orphaned_prefetch (g : Grant) (e : Option (Fin 2)) (a loc : Nat) (k : Location) (h : g.op = .prefetch e a loc k) :
    orphaned (some g) = some ⟨.prefetch none a loc k, true⟩ := by
  obtain ⟨op, orphan⟩ := g
  subst h
  cases e <;> rfl

/-- COPYING becomes FREE (R132). -/
theorem SpareEntry.atReset_eq (e : SpareEntry) : e.atReset = if e.isCopying then .free else e := by
  cases e <;> rfl

/-- A system reset for one of its causes: the reset of every block, the line low or the RESET_PART no longer due, and
the end of the event (R134, R181). -/
theorem exec_systemReset (cause : ResetCause) (s : State)
    (h : cause = .rstnFalls ∧ s.rstN = true ∨ cause = .resetPart ∧ s.resetDue = true) :
    exec (.systemReset cause) s = .next ({ s.systemReset with
      rstN := if cause = .rstnFalls then false else s.rstN,
      resetDue := if cause = .resetPart then false else s.resetDue } : State).settle := by
  rcases h with ⟨rfl, h⟩ | ⟨rfl, h⟩ <;> simp [exec, execSystemReset, h] <;> rfl

/-- Settles O51: the reset state block by block. -/
theorem systemResetActs : Obligations.SystemResetActs := by
  intro cause s hc fillRuns unwaited
  have runs (h : fillRuns) : s.fillToRun = true := s.fillToRun_iff.mpr h
  have not_runs (h : ¬ fillRuns) : s.fillToRun = false := by
    rw [← Bool.not_eq_true, s.fillToRun_iff]
    exact h
  refine ⟨_, exec_systemReset cause s hc, rfl, rfl, rfl, fun h => ?_, fun h => ⟨?_, s.resetFill_kept (not_runs h)⟩,
    fun h => s.resetFill_free (runs h), fun h => s.resetFill_busy (runs h), fun hg => ?_, fun g hg => ⟨fun ho => ?_,
    fun e a loc k ho => ?_⟩, fun n => ?_, rfl, rfl, rfl, fun src => ⟨?_, ?_⟩⟩
  · simp [State.systemReset, resetQueue, runs h, unwaited]
  · simp [State.systemReset, resetQueue, not_runs h, unwaited]
  · simp [State.systemReset, hg, orphaned, detached]
  · simp only [State.systemReset, hg, orphaned_other g ho]
  · simp only [State.systemReset, hg, orphaned_prefetch g e a loc k ho]
  · simp only [State.systemReset, PerSlot.get_make, SpareEntry.atReset_eq]
  · simp [State.systemReset, FaultUnit.systemReset, FaultRecord.cleared]
  · simp [State.systemReset, FaultUnit.systemReset]

end Sys2Proof.Machine
end

section
/-! Presentation at the upstream port (R21) and the refusals of the four acceptance checks (R22 to R28). -/

namespace Sys2Proof.Machine

/-! ### Presentation -/

/-- Outside READY a request is held on the bus (R21). -/
theorem State.present_elsewhere (s : State) (req : Request) (hp : s.port ≠ .ready)
    (hh : s.held = none ∨ s.held = some req) : s.present req = { s with held := some req } := by
  rw [State.present, if_pos hh, if_neg hp]

/-- In READY a request that was held is presented as one that was not (log 8). -/
theorem State.present_again (s : State) (req : Request) (hp : s.port = .ready) (hh : s.held = some req) :
    s.present req = ({ s with held := none } : State).present req := by
  rw [State.present_ready { s with held := none } req ⟨hp, rfl⟩, State.present, if_pos (.inr hh), if_pos hp]

/-- While one request is held another cannot be presented (log 8). -/
theorem State.present_other (s : State) (req other : Request) (hh : s.held = some other) (hne : other ≠ req) :
    s.present req = s := by
  rw [State.present, if_neg (by simp [hh, hne])]

/-- A presented request that a check refuses. -/
theorem exec_refused (c : Instr) (req : Request) (s : State) (hc : requestOf c = some req) (hw : c.wellFormed = true)
    (hp : Presentable s) (fault : Option FaultSource) (ends : Bool) (ha : s.acceptance req = .refused fault ends) :
    exec c s = .next (s.refuse req fault ends).settle := by
  rw [exec_request c req s hc hw, s.present_ready req hp, State.check, ha]

/-- A presented request that all checks pass. -/
theorem exec_admitted (c : Instr) (req : Request) (s : State) (hc : requestOf c = some req) (hw : c.wellFormed = true)
    (hp : Presentable s) (ha : Admitted s req) : exec c s = .next (s.take req).settle := by
  rw [exec_request c req s hc hw, s.present_ready req hp, s.check_admitted req ha]

/-- A request has 1 to 8 beats (R17). -/
theorem wellFormed_request_iff (c : Instr) (req : Request) (hc : requestOf c = some req) :
    c.wellFormed = true ↔ 1 ≤ req.count ∧ req.count ≤ 8 := by
  cases c with
  | readRequest | writeRequest | lockedReadRequest | lockedWriteRequest =>
    obtain rfl := Option.some.inj hc
    simp [Instr.wellFormed, readOf, writeOf]
  | _ => cases hc

/-! ### What a refusal does -/

/-- The mode check refuses without a fault (R23, R28). -/
theorem State.refuse_silent (s : State) (req : Request) : s.refuse req none false = s.respond (refusal req.op) := rfl

/-- A refusal that leaves the lock: one ERROR and the check's fault (R28). -/
theorem State.refuse_fault (s : State) (req : Request) (fault : FaultSource) :
    s.refuse req (some fault) false = (s.respond (refusal req.op)).occur fault := rfl

/-- The refusal of a locked WRITE whose lock is BROKEN ends the lock (R24). -/
theorem State.refuse_broken (s : State) (req : Request) (fault : FaultSource) (ho : req.op = .write) :
    s.refuse req (some fault) true = (({ s with lock := none } : State).respond .writeError).occur fault := by
  rw [State.refuse, ho]
  rfl

/-! ### Which check refuses -/

/-- The device mode check comes first (R22, R23). -/
theorem State.acceptance_mode (s : State) (req : Request) (h : ¬ ModeAdmits s req) :
    s.acceptance req = .refused none false := by
  have hm : modePasses s.faults.mode req.op = false := by rwa [← Bool.not_eq_true, modePasses_iff]
  simp [State.acceptance, hm]

/-- The lock rules check comes second (R22, R24). -/
theorem State.acceptance_lock (s : State) (req : Request) (fault : Option FaultSource) (ends : Bool)
    (hm : ModeAdmits s req) (hl : lockRules s.lock req = .refused fault ends) :
    s.acceptance req = .refused fault ends := by
  simp [State.acceptance, (modePasses_iff s req).mpr hm, hl]

/-- The range and guard checks come after them (R22, R25, R27). -/
theorem State.acceptance_range_guard (s : State) (req : Request) (hm : ModeAdmits s req) (hl : LockAdmits s req)
    (h : ¬ (RangeAdmits s req ∧ GuardAdmits s req)) : s.acceptance req = .refused (some .accessRefused) false := by
  rw [← rangePasses_iff, ← guardPasses_iff] at h
  simp only [State.acceptance, (modePasses_iff s req).mpr hm, (lockRules_taken_iff s req).mpr hl]
  cases hr : rangePasses s.settings.rangePolicy s.straps.visible req
  · simp
  · simp [hr] at h
    simp [h]

/-- A locked request of several beats (R24). -/
theorem lockRules_count (lock : Option Lock) (req : Request) (hl : req.locked = true) (hc : req.count ≠ 1) :
    lockRules lock req = .refused (some .accessRefused) false := by
  simp [lockRules, hl, hc]

/-- A locked READ while there is a lock (R24). -/
theorem lockRules_read (lock : Option Lock) (req : Request) (hl : req.locked = true) (hc : req.count = 1)
    (ho : req.op = .read) (hk : lock ≠ none) : lockRules lock req = .refused (some .lockFault) false := by
  obtain ⟨l, rfl⟩ := Option.ne_none_iff_exists'.mp hk
  simp [lockRules, hl, hc, ho]

/-- A locked WRITE without a lock, or whose lock is HELD at another word (R24). -/
theorem lockRules_write (lock : Option Lock) (req : Request) (hl : req.locked = true) (hc : req.count = 1)
    (ho : req.op = .write) (hk : ∀ l, lock = some l → l.state = .held ∧ l.address ≠ req.address.toNat) :
    lockRules lock req = .refused (some .lockFault) false := by
  cases lock with
  | none => simp [lockRules, hl, hc, ho]
  | some l =>
    obtain ⟨hs, ha⟩ := hk l rfl
    simp [lockRules, hl, hc, ho, hs, ha]

/-- A locked WRITE whose lock is BROKEN ends the lock (R24). -/
theorem lockRules_broken (l : Lock) (req : Request) (hl : req.locked = true) (hc : req.count = 1)
    (ho : req.op = .write) (hs : l.state = .broken) :
    lockRules (some l) req = .refused (some .lockFault) true := by
  simp [lockRules, hl, hc, ho, hs]

/-- Settles O6: the presentations by the port and what is held, the refusals by the check that fails first. -/
theorem requestHeldOrRefused : Obligations.RequestHeldOrRefused := by
  refine ⟨⟨rfl, rfl⟩, fun _ _ => rfl, fun _ _ _ _ _ => ⟨rfl, rfl⟩, wellFormed_request_iff, fun c req s hc hw => ?_⟩
  have presents (t : State) : exec c t = .next (t.present req) := exec_request c req t hc hw
  refine ⟨fun hp hh => ?_, fun hp hh => ?_, fun other hh hne => ?_, fun hp => ?_⟩
  · rw [presents, s.present_elsewhere req hp hh]
  · rw [presents, presents, s.present_again req hp hh]
  · rw [presents, s.present_other req other hh hne]
  intro refused
  have refuses := exec_refused c req s hc hw hp
  refine ⟨fun hm => ?_, fun hm hl => ⟨fun h1 => ?_, fun h1 ho hk => ?_, fun h1 ho hk => ?_, fun l h1 ho hs hb => ?_⟩,
    fun hm hl h => ?_⟩
  · rw [refuses _ _ (s.acceptance_mode req hm), State.refuse_silent]
  · rw [refuses _ _ (s.acceptance_lock req _ _ hm (lockRules_count _ _ hl h1)), State.refuse_fault]
  · rw [refuses _ _ (s.acceptance_lock req _ _ hm (lockRules_read _ _ hl h1 ho hk)), State.refuse_fault]
  · rw [refuses _ _ (s.acceptance_lock req _ _ hm (lockRules_write _ _ hl h1 ho hk)), State.refuse_fault]
  · rw [refuses _ _ (s.acceptance_lock req _ _ hm (hs ▸ lockRules_broken l req hl h1 ho hb)),
      State.refuse_broken _ _ _ ho]
  · rw [refuses _ _ (s.acceptance_range_guard req hm hl h), State.refuse_fault]

end Sys2Proof.Machine
end

section
/-! The insertion of write beats (R29, R33, R43 to R46, R55, R75, R84). -/

namespace Sys2Proof.Machine

/-! ### The entry a beat merges into -/

/-- A merge keeps an entry's word and stage, and makes it awaited where the write waits (R55). -/
theorem merged_frame (locked through : Bool) (b : Beat) (e : Entry) :
    (merged locked through b e).address = e.address ∧ (merged locked through b e).stage = e.stage ∧
      (merged locked through b e).waiter = (e.waiter || through) := by
  unfold merged
  split
  · split <;> exact ⟨rfl, rfl, rfl⟩
  all_goals exact ⟨rfl, rfl, rfl⟩

/-- A partial beat leaves a POISON entry (R44). -/
theorem merged_poison_partial (locked through : Bool) (b : Beat) (e : Entry) (hk : e.kind = .poison)
    (hl : b.lanes ≠ .full) : merged locked through b e = { e with waiter := e.waiter || through } := by
  simp [merged, hk, hl]

/-- A full beat takes a POISON entry's place (R44). -/
theorem merged_poison_full (locked through : Bool) (b : Beat) (e : Entry) (hk : e.kind = .poison)
    (hl : b.lanes = .full) : merged locked through b e =
      { e with kind := beatKind locked, data := b.data, lanes := .full, waiter := e.waiter || through } := by
  simp [merged, hk, hl]

/-- The kind a merge gives: a write's own for a REPAIR entry, and LOCKED_WRITE once either is locked (R43, R45). -/
theorem merged_kind (locked through : Bool) (b : Beat) (e : Entry) (hk : e.kind ≠ .poison) :
    (merged locked through b e).kind = if e.kind = .lockedWrite then .lockedWrite else beatKind locked := by
  unfold merged
  cases hke : e.kind with
  | poison => exact absurd hke hk
  | repair => rfl
  | busWrite | lockedWrite => cases locked <;> rfl

/-- Into any but a POISON entry a beat merges lane by lane (R43). -/
theorem merged_lanes_data (locked through : Bool) (b : Beat) (e : Entry) (hk : e.kind ≠ .poison) :
    (merged locked through b e).lanes = e.lanes ||| b.lanes ∧
      (merged locked through b e).data = mergeLanes b.lanes b.data e.data := by
  unfold merged
  cases hke : e.kind with
  | poison => exact absurd hke hk
  | repair | busWrite | lockedWrite => exact ⟨rfl, rfl⟩

/-! ### The placing of a beat -/

/-- The entry that a beat merges into, if there is one: the first that is WAITING for its word (R43). -/
def waitingFor (q : List Entry) (a : Nat) : Option Entry := q.find? fun e => e.address = a && e.stage = .waiting

/-- A beat is lost where it is partial and merges into a POISON entry (R44). -/
theorem placeBeat_lost_iff (locked through : Bool) (a : Nat) (b : Beat) (q : List Entry) : ∀ i,
    (placeBeat locked through a b i q).lost = true ↔
      ∃ e, waitingFor q a = some e ∧ e.kind = .poison ∧ b.lanes ≠ .full := by
  induction q with
  | nil => simp [placeBeat, waitingFor]
  | cons x xs ih =>
    intro i
    by_cases h : x.address = a ∧ x.stage = .waiting
    · simp [placeBeat, waitingFor, h, lost]
    · have hx : (x.address = a && x.stage = .waiting) = false := by simpa using h
      rw [placeBeat, if_neg h, waitingFor, List.find?_cons_of_neg (by simp [hx])]
      exact ih (i + 1)

/-- The place of the queue holds an entry that is WAITING for this word. -/
def WaitsAt (q : List Entry) (i a : Nat) : Prop := ∃ e, q[i]? = some e ∧ e.address = a ∧ e.stage = .waiting

/-- At most one entry is WAITING for a word (R42). -/
def WaitsOnce (q : List Entry) : Prop := ∀ i j a, WaitsAt q i a → WaitsAt q j a → i = j

theorem waitsOnce_of_pairwise (q : List Entry) (h : q.Pairwise fun e f => clash e f = false) : WaitsOnce q := by
  rw [List.pairwise_iff_getElem] at h
  have apart (i j a : Nat) (hij : i < j) (hi : WaitsAt q i a) (hj : WaitsAt q j a) : False := by
    obtain ⟨e, he, hea, hes⟩ := hi
    obtain ⟨f, hf, hfa, hfs⟩ := hj
    obtain ⟨li, rfl⟩ := List.getElem?_eq_some_iff.mp he
    obtain ⟨lj, rfl⟩ := List.getElem?_eq_some_iff.mp hf
    have := h i j li lj hij
    simp [clash, hea, hfa, hes, hfs] at this
  intro i j a hi hj
  rcases Nat.lt_trichotomy i j with hij | hij | hij
  · exact (apart i j a hij hi hj).elim
  · exact hij
  · exact (apart j i a hij hj hi).elim

/-- After the placing of a beat the places that wait are those that did, and the beat's own (R43). -/
theorem waitsAt_placeBeat (locked through : Bool) (a : Nat) (b : Beat) (q : List Entry) (i x : Nat) :
    WaitsAt (placeBeat locked through a b 0 q).queue i x ↔
      WaitsAt q i x ∨ i = (placeBeat locked through a b 0 q).place ∧ x = a := by
  rcases placeBeat_cases locked through a b q 0 with ⟨k, e, hk, ha, hw, _, hp⟩ | ⟨_, hp⟩ <;> rw [hp] <;>
    simp only [Nat.zero_add]
  · obtain ⟨hma, hms, _⟩ := merged_frame locked through b e
    have hlt : k < q.length := (List.getElem?_eq_some_iff.mp hk).1
    by_cases hi : i = k
    · subst hi
      simp only [WaitsAt, List.getElem?_set_self hlt, hk, Option.some.injEq, exists_eq_left', hma, hms, ha, hw, true_and,
        and_true, eq_comm (a := x), or_self]
    · simp only [WaitsAt, List.getElem?_set_ne (Ne.symm hi), hi, false_and, or_false]
  · rcases Nat.lt_trichotomy i q.length with hi | rfl | hi
    · simp only [WaitsAt, List.getElem?_append_left hi, Nat.ne_of_lt hi, false_and, or_false]
    · simp only [WaitsAt, List.getElem?_concat_length, Option.some.injEq, exists_eq_left', appended, and_true, true_and,
        List.getElem?_eq_none (Nat.le_refl _), false_and, exists_false, false_or, eq_comm (a := x), reduceCtorEq]
    · have h1 : q[i]? = none := List.getElem?_eq_none (by omega)
      have h2 : (q ++ [appended locked through a b])[i]? = none := List.getElem?_eq_none (by simp; omega)
      simp only [WaitsAt, h1, h2, Nat.ne_of_gt hi, false_and, exists_false, or_self, reduceCtorEq]

/-- Where an entry waits for the beat's word, one does at the beat's place (R43). -/
theorem waitsAt_place (locked through : Bool) (a : Nat) (b : Beat) (q : List Entry) (i : Nat) (h : WaitsAt q i a) :
    WaitsAt q (placeBeat locked through a b 0 q).place a := by
  rcases placeBeat_cases locked through a b q 0 with ⟨k, e, hk, ha, hw, _, hp⟩ | ⟨hn, _⟩
  · rw [hp, Nat.zero_add]
    exact ⟨e, hk, ha, hw⟩
  · obtain ⟨e, he, h⟩ := h
    exact (hn e (List.mem_of_getElem? he) h).elim

theorem waitsOnce_placeBeat (locked through : Bool) (a : Nat) (b : Beat) (q : List Entry) (h : WaitsOnce q) :
    WaitsOnce (placeBeat locked through a b 0 q).queue := by
  have own (i : Nat) (hi : WaitsAt q i a) : i = (placeBeat locked through a b 0 q).place :=
    h _ _ _ hi (waitsAt_place locked through a b q i hi)
  intro i j x hi hj
  rcases (waitsAt_placeBeat ..).mp hi with hi | ⟨rfl, rfl⟩ <;> rcases (waitsAt_placeBeat ..).mp hj with hj | ⟨rfl, hx⟩
  · exact h i j x hi hj
  · exact own i (hx ▸ hi)
  · exact (own j hj).symm
  · rfl

/-! ### The read-ahead buffer and its grant -/

theorem RaEntry.holds_iff (e : RaEntry) (line : Nat) : e.holds line = true ↔ e.line? = some line := by
  simp [RaEntry.holds]

/-- The entries after a line has been emptied (R46, R75). -/
theorem ReadAhead.get_without (ra : ReadAhead) (line : Nat) (i : Fin 2) :
    (ra.without line).get i = if (ra.get i).line? = some line then .empty else ra.get i := by
  simp only [ReadAhead.get, ReadAhead.without, RaEntry.holds_iff]
  split <;> rfl

/-- A PREFETCH grant for an entry that is gone loses it (R75). -/
theorem detached_entry (p : Fin 2 → Bool) (i : Fin 2) (x loc : Nat) (k : Location) (o : Bool) (h : p i = true) :
    detached p (some ⟨.prefetch (some i) x loc k, o⟩) = some ⟨.prefetch none x loc k, o⟩ := by
  simp [detached, h]

/-- Every other grant is unchanged (R75). -/
theorem detached_other (p : Fin 2 → Bool) (g : Option Grant)
    (h : ∀ i x loc k o, g = some ⟨.prefetch (some i) x loc k, o⟩ → p i = false) : detached p g = g := by
  unfold detached
  split
  · rename_i i x loc k o
    rw [h i x loc k o rfl, if_neg Bool.false_ne_true]
  · rfl

/-- What is left of a grant: it is unchanged, or a PREFETCH grant that has lost its entry (R75). -/
theorem detached_cases (p : Fin 2 → Bool) (g : Option Grant) : detached p g = g ∨
    ∃ i x loc k o, g = some ⟨.prefetch (some i) x loc k, o⟩ ∧ detached p g = some ⟨.prefetch none x loc k, o⟩ := by
  unfold detached
  split
  · rename_i i x loc k o
    split
    · exact .inr ⟨i, x, loc, k, o, rfl, rfl⟩
    · exact .inl rfl
  · exact .inl rfl

/-- Whether a SCRUB grant is in progress does not depend on the entry of a PREFETCH grant. -/
theorem State.scrubGranted_detached (s t : State) (p : Fin 2 → Bool) (h : t.grant = detached p s.grant) :
    t.scrubGranted = s.scrubGranted := by
  rcases detached_cases p s.grant with hd | ⟨i, x, loc, k, o, hg, hd⟩
  · simp only [State.scrubGranted, h.trans hd]
  · simp only [State.scrubGranted, h.trans hd, hg]

/-! ### The insertion of a beat -/

/-- An occurrence reaches the Fault Unit and the scrub alone. -/
theorem State.occurOpt_eq (s : State) (src : Option FaultSource) :
    s.occurOpt src = { s with faults := (s.occurOpt src).faults, scrub := (s.occurOpt src).scrub } := by
  cases src <;> rfl

/-- What an insertion does to the queue, the buffer, its grant and the lock, whether or not the beat is lost (R43, R46,
R75, R84). -/
theorem State.insertBeat_blocks (s : State) (locked through : Bool) (a : Nat) (b : Beat) :
    (s.insertBeat locked through a b).queue = (placeBeat locked through a b 0 s.queue).queue ∧
    (s.insertBeat locked through a b).readAhead = s.readAhead.without (lineOf a) ∧
    (s.insertBeat locked through a b).grant = detached (fun i => (s.readAhead.get i).holds (lineOf a)) s.grant ∧
    (s.insertBeat locked through a b).lock = if locked then s.lock else brokenBy a s.lock := by
  simp [State.insertBeat]

/-- Nothing else is reached but the Fault Unit and the scrub. -/
theorem State.insertBeat_eq (s : State) (locked through : Bool) (a : Nat) (b : Beat) :
    s.insertBeat locked through a b =
      { s with
        queue := (s.insertBeat locked through a b).queue, readAhead := (s.insertBeat locked through a b).readAhead,
        grant := (s.insertBeat locked through a b).grant, lock := (s.insertBeat locked through a b).lock,
        faults := (s.insertBeat locked through a b).faults, scrub := (s.insertBeat locked through a b).scrub } := by
  obtain ⟨hq, hra, hg, hl⟩ := s.insertBeat_blocks locked through a b
  rw [hq, hra, hg, hl]
  exact State.occurOpt_eq _ _

/-- What an occurrence does, block by block: the Fault Unit's own part (R152), and the pause of the scrub where it is
HALTED (R146). -/
theorem State.occur_blocks (s : State) (src : FaultSource) :
    let faults := s.faults.occur src (s.settings.reactions.get src) (s.settings.escalate.getLsbD src.place)
    (s.occur src).faults = faults ∧
      (s.occur src).scrub =
        if faults.mode = .halted ∧ s.scrubGranted = false then s.scrub.pause else s.scrub := ⟨rfl, rfl⟩

/-- A lost beat raises WRITE_MERGE_FAILED (R44). -/
theorem State.insertBeat_lost (s : State) (locked through : Bool) (a : Nat) (b : Beat)
    (h : (placeBeat locked through a b 0 s.queue).lost = true) :
    (s.insertBeat locked through a b).faults = (s.occur .writeMergeFailed).faults ∧
      (s.insertBeat locked through a b).scrub = (s.occur .writeMergeFailed).scrub := by
  simp only [State.insertBeat, h, if_true, State.occurOpt, State.occur_blocks, true_and]
  rw [State.scrubGranted_detached s _ (fun i => (s.readAhead.get i).holds (lineOf a)) rfl]

/-- A beat that is not lost raises nothing. -/
theorem State.insertBeat_kept (s : State) (locked through : Bool) (a : Nat) (b : Beat)
    (h : (placeBeat locked through a b 0 s.queue).lost = false) :
    (s.insertBeat locked through a b).faults = s.faults ∧ (s.insertBeat locked through a b).scrub = s.scrub := by
  simp [State.insertBeat, h, State.occurOpt]

/-! ### The insertion of a write's beats -/

/-- The awaited places of a write are those of its beats (R55). -/
theorem State.mem_places_cons (s : State) (locked through : Bool) (a : Nat) (b : Beat) (rest : List (Nat × Beat))
    (i : Nat) : i ∈ (s.insertBeats locked through ((a, b) :: rest)).places ↔
      i = (placeBeat locked through a b 0 s.queue).place ∨
        i ∈ ((s.insertBeat locked through a b).insertBeats locked through rest).places := by
  simp only [State.insertBeats]
  split
  · rename_i h
    exact ⟨.inr, fun h' => h'.elim (fun e => e ▸ h) id⟩
  · exact List.mem_cons

/-- A place that waits goes on waiting for its word. -/
theorem State.waitsAt_insertBeats (locked through : Bool) (rest : List (Nat × Beat)) (i x : Nat) : ∀ s : State,
    WaitsAt s.queue i x → WaitsAt (s.insertBeats locked through rest).state.queue i x := by
  induction rest with
  | nil => exact fun _ h => h
  | cons y rest ih =>
    obtain ⟨a, b⟩ := y
    intro s h
    refine ih (s.insertBeat locked through a b) ?_
    rw [(s.insertBeat_blocks locked through a b).1]
    exact (waitsAt_placeBeat ..).mpr (.inl h)

theorem State.waitsOnce_insertBeats (locked through : Bool) (rest : List (Nat × Beat)) : ∀ s : State,
    WaitsOnce s.queue → WaitsOnce (s.insertBeats locked through rest).state.queue := by
  induction rest with
  | nil => exact fun _ h => h
  | cons y rest ih =>
    obtain ⟨a, b⟩ := y
    intro s h
    refine ih (s.insertBeat locked through a b) ?_
    rw [(s.insertBeat_blocks locked through a b).1]
    exact waitsOnce_placeBeat locked through a b s.queue h

/-- The awaited places are those that in the end wait for a word of the write (R55). -/
theorem State.mem_places_iff (locked through : Bool) (rest : List (Nat × Beat)) (i : Nat) : ∀ s : State,
    WaitsOnce s.queue → (i ∈ (s.insertBeats locked through rest).places ↔
      ∃ x ∈ rest, WaitsAt (s.insertBeats locked through rest).state.queue i x.1) := by
  induction rest with
  | nil => simp [State.insertBeats]
  | cons y rest ih =>
    obtain ⟨a, b⟩ := y
    intro s h
    have hq := (s.insertBeat_blocks locked through a b).1
    have hw : WaitsOnce (s.insertBeat locked through a b).queue := hq ▸ waitsOnce_placeBeat locked through a b s.queue h
    have own : WaitsAt (s.insertBeats locked through ((a, b) :: rest)).state.queue
        (placeBeat locked through a b 0 s.queue).place a := by
      refine State.waitsAt_insertBeats locked through rest _ _ (s.insertBeat locked through a b) ?_
      rw [hq]
      exact (waitsAt_placeBeat ..).mpr (.inr ⟨rfl, rfl⟩)
    have once := State.waitsOnce_insertBeats locked through ((a, b) :: rest) s h
    have first : i = (placeBeat locked through a b 0 s.queue).place ↔
        WaitsAt (s.insertBeats locked through ((a, b) :: rest)).state.queue i a :=
      ⟨fun e => e ▸ own, fun hi => once _ _ _ hi own⟩
    rw [s.mem_places_cons, ih _ hw, List.exists_mem_cons_iff, first]
    rfl

/-- A write is lost in part where one of its beats is lost (R33). -/
theorem State.insertBeats_lost_cons (s : State) (locked through : Bool) (a : Nat) (b : Beat)
    (rest : List (Nat × Beat)) : (s.insertBeats locked through ((a, b) :: rest)).lost = true ↔
      (∃ e, waitingFor s.queue a = some e ∧ e.kind = .poison ∧ b.lanes ≠ .full) ∨
        ((s.insertBeat locked through a b).insertBeats locked through rest).lost = true := by
  rw [← placeBeat_lost_iff locked through a b s.queue 0]
  exact Bool.or_eq_true_iff

/-- A merge by kind and lanes (R43 to R45, R55). -/
theorem merged_by_kind (locked through : Bool) (b : Beat) (e : Entry) :
    let kind : EntryKind := if locked then .lockedWrite else .busWrite
    let m := merged locked through b e
    m.address = e.address ∧ m.stage = e.stage ∧ m.waiter = (e.waiter || through) ∧
    (e.kind = .poison → b.lanes ≠ .full → m.kind = .poison ∧ m.data = e.data ∧ m.lanes = e.lanes) ∧
    (e.kind = .poison → b.lanes = .full → m.kind = kind ∧ m.data = b.data ∧ m.lanes = .full) ∧
    (e.kind = .repair → m.kind = kind) ∧
    (e.kind = .busWrite → m.kind = kind) ∧
    (e.kind = .lockedWrite → m.kind = .lockedWrite) ∧
    (e.kind ≠ .poison → m.lanes = e.lanes ||| b.lanes ∧
      ∀ i < 32, m.data.getLsbD i = if b.lanes.getLsbD (i / 8) then b.data.getLsbD i else e.data.getLsbD i) := by
  intro kind m
  obtain ⟨ha, hs, hw⟩ := merged_frame locked through b e
  have kinds (h : e.kind ≠ .poison) : m.kind = if e.kind = .lockedWrite then .lockedWrite else kind :=
    merged_kind locked through b e h
  refine ⟨ha, hs, hw, fun hk hl => ?_, fun hk hl => ?_, fun hk => ?_, fun hk => ?_, fun hk => ?_, fun hk => ?_⟩
  · simp only [m, merged_poison_partial locked through b e hk hl, hk, and_self]
  · simp only [m, merged_poison_full locked through b e hk hl, beatKind, kind, and_self]
  · simpa [hk] using kinds
  · simpa [hk] using kinds
  · simpa [hk] using kinds
  · obtain ⟨hl, hd⟩ := merged_lanes_data locked through b e hk
    exact ⟨hl, fun i hi => hd ▸ getLsbD_mergeLanes b.lanes b.data e.data i hi⟩

/-- A beat merges into the first entry that is WAITING for its word (R43). -/
theorem placeBeat_merges (locked through : Bool) (a : Nat) (b : Beat) (q : List Entry) (i : Nat) (e : Entry)
    (hi : q[i]? = some e) (ha : e.address = a) (hs : e.stage = .waiting)
    (first : ∀ j f, j < i → q[j]? = some f → ¬ (f.address = a ∧ f.stage = .waiting)) :
    (placeBeat locked through a b 0 q).queue = q.set i (merged locked through b e) := by
  rcases placeBeat_cases locked through a b q 0 with ⟨k, f, hk, hfa, hfs, hfirst, hp⟩ | ⟨hn, _⟩
  · obtain rfl : k = i := by
      rcases Nat.lt_trichotomy k i with h | h | h
      · exact (first k f h hk ⟨hfa, hfs⟩).elim
      · exact h
      · exact (hfirst i e h hi ⟨ha, hs⟩).elim
    obtain rfl : f = e := Option.some.inj (hk.symm.trans hi)
    rw [hp]
  · exact (hn e (List.mem_of_getElem? hi) ⟨ha, hs⟩).elim

/-- Without an entry that is WAITING for its word a beat is appended (R43). -/
theorem placeBeat_appends (locked through : Bool) (a : Nat) (b : Beat) (q : List Entry)
    (hn : ∀ e ∈ q, ¬ (e.address = a ∧ e.stage = .waiting)) :
    (placeBeat locked through a b 0 q).queue = q ++ [appended locked through a b] := by
  rcases placeBeat_cases locked through a b q 0 with ⟨k, f, hk, hfa, hfs, _⟩ | ⟨_, hp⟩
  · exact (hn f (List.mem_of_getElem? hk) ⟨hfa, hfs⟩).elim
  · rw [hp]

/-- Settles O10: the merge by kind, the insertion of a beat block by block, and the write's places and loss beat by
beat. -/
theorem beatInsertion : Obligations.BeatInsertion := by
  refine ⟨merged_by_kind, fun s locked through a b => ?_, fun s locked through a b rest =>
    ⟨rfl, rfl, rfl, s.insertBeats_lost_cons locked through a b rest, fun h i =>
      State.mem_places_iff locked through rest i s (waitsOnce_of_pairwise s.queue h)⟩⟩
  intro t lost
  obtain ⟨hq, hra, hg, hl⟩ := s.insertBeat_blocks locked through a b
  have lost_iff : (placeBeat locked through a b 0 s.queue).lost = true ↔ lost :=
    placeBeat_lost_iff locked through a b s.queue 0
  refine ⟨fun i e hi ha hs first => hq.trans (placeBeat_merges locked through a b s.queue i e hi ha hs first),
    fun hn => hq.trans (placeBeat_appends locked through a b s.queue hn), fun i => ?_, hl,
    fun h => s.insertBeat_lost locked through a b (lost_iff.mpr h),
    fun h => s.insertBeat_kept locked through a b (by rwa [← Bool.not_eq_true, lost_iff]),
    fun i x loc k o hgr hline => ?_, fun h => ?_, s.insertBeat_eq locked through a b⟩
  · rw [show t.readAhead = _ from hra, ReadAhead.get_without]
    rfl
  · rw [show t.grant = _ from hg, hgr]
    exact detached_entry _ i x loc k o ((RaEntry.holds_iff ..).mpr hline)
  · refine hg.trans (detached_other _ _ fun i x loc k o hgr => ?_)
    rw [← Bool.not_eq_true, RaEntry.holds_iff]
    exact h i x loc k o hgr

end Sys2Proof.Machine
end

section
/-! A taken write: its queued beats, its insertion, its waits and its completion (R21, R26, R29 to R32, R85). -/

namespace Sys2Proof.Machine

/-! ### The queued beats -/

/-- Under the acceptance checks' policy a beat is marked in range unless it is beyond V under QUIET (R20, R26). -/
theorem State.markedInRange_marksOf (s : State) (req : Request) (i : Nat) (hi : i < req.count) :
    markedInRange (s.marksOf req) i = true ↔
      s.settings.rangePolicy = .error ∨ req.address.toNat + i < s.straps.visible := by
  unfold State.marksOf
  cases s.settings.rangePolicy <;>
    simp [markedInRange, Request.inRange, Request.beatAddress, List.getD_eq_getElem?_getD, hi]

/-- The beats of an admitted request that are marked in range lie below V (R25, R26). -/
theorem State.marked_iff_visible (s : State) (req : Request) (h : RangeAdmits s req) (i : Nat) (hi : i < req.count) :
    markedInRange (s.marksOf req) i = true ↔ req.address.toNat + i < s.straps.visible := by
  rw [s.markedInRange_marksOf req i hi]
  refine ⟨fun h' => ?_, .inr⟩
  rcases h' with he | hv
  · rcases h with hq | hall
    · rw [hq] at he
      cases he
    · exact hall i hi
  · exact hv

/-- A beat is queued where it is marked in range and enables a lane (R29). -/
theorem mem_addressed (req : Request) (marks : Option (List Bool)) (x : Nat × Beat) (bs : List Beat) : ∀ i,
    x ∈ addressed req marks i bs ↔ ∃ k, bs[k]? = some x.2 ∧ x.1 = req.beatAddress (i + k) ∧
      markedInRange marks (i + k) = true ∧ x.2.lanes ≠ 0 := by
  induction bs with
  | nil => simp [addressed]
  | cons b bs ih =>
    intro i
    have step : x ∈ addressed req marks i (b :: bs) ↔
        (x = (req.beatAddress i, b) ∧ markedInRange marks i = true ∧ b.lanes ≠ 0) ∨
          x ∈ addressed req marks (i + 1) bs := by
      rw [addressed]
      split
      · rename_i h
        simp only [Bool.and_eq_true, bne_iff_ne] at h
        rw [List.mem_cons, and_iff_left h]
      · rename_i h
        simp only [Bool.and_eq_true, bne_iff_ne] at h
        exact (or_iff_right fun h' => h h'.2).symm
    rw [step, ih]
    constructor
    · rintro (⟨rfl, hm, hl⟩ | ⟨k, hk, ha, hm, hl⟩)
      · exact ⟨0, rfl, rfl, hm, hl⟩
      · rw [show i + 1 + k = i + (k + 1) by omega] at ha hm
        exact ⟨k + 1, hk, ha, hm, hl⟩
    · rintro ⟨k, hk, ha, hm, hl⟩
      cases k with
      | zero =>
        obtain rfl : b = x.2 := Option.some.inj hk
        exact .inl ⟨Prod.ext ha rfl, hm, hl⟩
      | succ k =>
        rw [show i + (k + 1) = i + 1 + k by omega] at ha hm
        exact .inr ⟨k, hk, ha, hm, hl⟩

/-- The queued beats stand in the order of their words (R18, R29). -/
theorem addressed_rising (req : Request) (marks : Option (List Bool)) (bs : List Beat) : ∀ i,
    (addressed req marks i bs).Pairwise fun x y => x.1 < y.1 := by
  induction bs with
  | nil => exact fun _ => .nil
  | cons b bs ih =>
    intro i
    rw [addressed]
    split
    · refine .cons (fun y hy => ?_) (ih (i + 1))
      obtain ⟨k, _, ha, _⟩ := (mem_addressed req marks y bs (i + 1)).mp hy
      simp only [ha, Request.beatAddress]
      omega
    · exact ih (i + 1)

/-- The queued beats of an admitted write: below V and enabling a lane (R26, R29). -/
theorem State.mem_queuedBeats (s : State) (a : BitVec 22) (bs : List Beat) (p : Bool)
    (h : Admitted s (writeOf a bs false p)) (x : Nat × Beat) :
    x ∈ queuedBeats (writeOf a bs false p) (s.marksOf (writeOf a bs false p)) ↔
      ∃ i, bs[i]? = some x.2 ∧ x.1 = a.toNat + i ∧ x.1 < s.straps.visible ∧ x.2.lanes ≠ 0 := by
  obtain ⟨_, _, hr, _⟩ := h
  unfold queuedBeats
  rw [mem_addressed]
  refine exists_congr fun i => and_congr_right fun hi => ?_
  have hlt : i < bs.length := (List.getElem?_eq_some_iff.mp hi).1
  rw [Nat.zero_add, s.marked_iff_visible _ hr i hlt]
  refine and_congr_right fun hx => ?_
  rw [show x.1 = a.toNat + i from hx]
  rfl

/-! ### The insertion of a write -/

/-- An insertion leaves the port. -/
theorem State.insertBeats_port (locked through : Bool) (rest : List (Nat × Beat)) : ∀ s : State,
    (s.insertBeats locked through rest).state.port = s.port := by
  induction rest with
  | nil => exact fun _ => rfl
  | cons y rest ih => exact fun s => (ih (s.insertBeat locked through y.1 y.2)).trans (by simp)

/-- In READY the end of a transaction removes its record alone. -/
theorem State.endTransaction_ready (s : State) (h : s.port = .ready) : s.endTransaction = { s with txn := none } := by
  rw [State.endTransaction, ← h]

/-- A POSTED write is completed when it is inserted (R31). -/
theorem State.insertWrite_posted (s : State) (req : Request) (marks : Option (List Bool)) :
    s.insertWrite req marks .posted =
      (s.insertBeats req.locked false (queuedBeats req marks)).state.endTransaction.respond .writeOk := rfl

/-- A THROUGH write waits for the drains of its entries (R32). -/
theorem State.insertWrite_through (s : State) (req : Request) (marks : Option (List Bool)) :
    let r := s.insertBeats req.locked true (queuedBeats req marks)
    s.insertWrite req marks .through =
      { r.state with
        port := .writeDrainWait, txn := some ⟨req, marks, .write .through r.places r.lost⟩ } := rfl

/-! ### A taken plain write -/

/-- A write without a queued beat is completed at once (R30). -/
theorem State.takeWrite_none (s : State) (req : Request) (hl : req.locked = false)
    (h : queuedBeats req (s.marksOf req) = []) :
    s.takeWrite req = s.endTransaction.respond .writeOk := by
  simp [State.takeWrite, hl, h, State.respond, State.endTransaction]

/-- A write for which the queue has room is inserted (R29). -/
theorem State.takeWrite_room (s : State) (req : Request) (hl : req.locked = false)
    (h : queuedBeats req (s.marksOf req) ≠ []) (hr : (queuedBeats req (s.marksOf req)).length ≤ 8 - s.queue.length) :
    s.takeWrite req = s.insertWrite req (s.marksOf req) s.settings.posting := by
  simp [State.takeWrite, hl, h, State.freeEntries, hr, State.postingOf]

/-- A write without room waits for space (R29). -/
theorem State.takeWrite_full (s : State) (req : Request) (hl : req.locked = false)
    (h : 8 - s.queue.length < (queuedBeats req (s.marksOf req)).length) :
    s.takeWrite req = { s with
      port := .writeSpaceWait, txn := some ⟨req, s.marksOf req, .write s.settings.posting [] false⟩ } := by
  have hn : queuedBeats req (s.marksOf req) ≠ [] := List.ne_nil_of_length_pos (Nat.zero_lt_of_lt h)
  simp [State.takeWrite, hl, hn, State.freeEntries, Nat.not_le.mpr h, State.postingOf]

/-- Settles O9: no queued beat, room for the beats by posting mode, and no room. -/
theorem plainWriteTaken : Obligations.PlainWriteTaken := by
  intro a bs p s hw hp ha req queued beats posted through
  have hport : s.port = .ready := hp.1
  have taken : exec (.writeRequest a bs p) s = .next (s.takeWrite req).settle := exec_admitted _ req s rfl hw hp ha
  refine ⟨s.mem_queuedBeats a bs p ha, addressed_rising .., fun h => ?_, fun h hr hpo => ?_, fun h hr hpo => ?_,
    fun h => ?_⟩
  · rw [taken, s.takeWrite_none req rfl h, s.endTransaction_ready hport]
  · rw [taken, s.takeWrite_room req rfl h hr, hpo, State.insertWrite_posted]
    rw [State.endTransaction_ready _ ((State.insertBeats_port req.locked false beats s).trans hport)]
    rfl
  · rw [taken, s.takeWrite_room req rfl h hr, hpo, State.insertWrite_through]
    rfl
  · rw [taken, s.takeWrite_full req rfl h]

/-! ### A write carried on -/

/-- A write that waits for space is inserted once the queue has room, and goes on waiting otherwise (R29). -/
theorem exec_writeInsertion (s : State) (req : Request) (marks : Option (List Bool)) (posting : PostingMode)
    (awaited : List Nat) (failed : Bool) (hp : s.port = .writeSpaceWait)
    (ht : s.txn = some ⟨req, marks, .write posting awaited failed⟩) :
    exec .writeInsertion s =
      .next (if (queuedBeats req marks).length ≤ 8 - s.queue.length then (s.insertWrite req marks posting).settle
        else s) := by
  simp only [exec, execWriteInsertion, hp, ht, State.freeEntries]
  exact (apply_ite _ _ _ _).symm

/-- A write that waits for drains is answered once none is awaited (R32). -/
theorem exec_writeCompletion (s : State) (req : Request) (marks : Option (List Bool)) (posting : PostingMode)
    (awaited : List Nat) (failed : Bool) (hp : s.port = .writeDrainWait)
    (ht : s.txn = some ⟨req, marks, .write posting awaited failed⟩) :
    exec .writeCompletion s = .next (if awaited = [] then (s.complete req failed).settle else s) := by
  cases awaited <;> simp [exec, execWriteCompletion, hp, ht]

/-- Settles O11: the insertion by room and posting mode, the completion by what is awaited. -/
theorem writesCarriedOn : Obligations.WritesCarriedOn := by
  intro s req marks posting aw f ht beats r
  refine ⟨fun hp => ?_, fun hp => ?_⟩
  · rw [exec_writeInsertion s req marks posting aw f hp ht]
    refine ⟨fun h => ?_, fun h hpo => ?_, fun h hpo => ?_⟩
    · rw [if_neg (Nat.not_le.mpr h)]
    · subst hpo
      rw [if_pos h, State.insertWrite_posted]
      rfl
    · subst hpo
      rw [if_pos h, State.insertWrite_through]
      rfl
  · rw [exec_writeCompletion s req marks posting aw f hp ht]
    refine ⟨fun h => ?_, fun h => ?_⟩
    · rw [if_neg h]
    · rw [if_pos h]
      rfl

end Sys2Proof.Machine
end

section
/-! The beats of a plain read: one beat by its answer (R34 to R36), a beat by what it finds in the queue, the buffer and
the array (R34, R49, R62, R76), a burst forwarded from the queue and one beyond V (R26). -/

namespace Sys2Proof.Machine

/-! ### What a beat finds -/

/-- A word without a queue entry is offered one while there is room (R47). -/
theorem offerAnswer_absent (q : List Entry) (a : Nat) (h : newestEntry q a = none) :
    offerAnswer q a = if q.length < 8 then .queued else .dropped := by
  have hw : holdsWord q a = false := by
    rw [← Bool.not_eq_true, holdsWord_iff]
    rintro ⟨e, he, ha⟩
    exact (newestEntry_none q a).mp h e he ha
  simp [offerAnswer, hw]

/-- The delivery of a BAD word that has no queue entry (R76). -/
theorem State.deliverBad_absent (s : State) (a : Nat) (kind : Detected) (y : Option Syndrome) (loc : Location)
    (h : newestEntry s.queue a = none) : s.deliverBad a kind y loc =
      ((s.occur .readUncorrectable).offer .poison a 0).deliveryReport a kind y loc
        (if s.queue.length < 8 then .queued else .dropped) := by
  rw [← offerAnswer_absent s.queue a h]
  rfl

/-- A GOOD slot of a VALID line answers a beat (R34, case 3). -/
theorem State.takeBeat_good (s : State) (a line : Nat) (early : Bool) (slots : List RaSlot) (d : Word)
    (h : newestEntry s.queue a = none) (hv : s.readAhead.entryFor (a / 8) = .valid line early slots)
    (hs : slots[a % 8]? = some (.good d)) : s.takeBeat a = (.data d, s) := by
  rw [s.takeBeat_none a h, lineOf, hv]
  simp only [hs]

/-- A BAD slot of a VALID line answers a beat ERROR (R34, case 3; R76). -/
theorem State.takeBeat_bad (s : State) (a line : Nat) (early : Bool) (slots : List RaSlot) (d : Word)
    (kind : Detected) (y : Option Syndrome) (loc : Location) (h : newestEntry s.queue a = none)
    (hv : s.readAhead.entryFor (a / 8) = .valid line early slots) (hs : slots[a % 8]? = some (.bad d kind y loc)) :
    s.takeBeat a = (.error, ((s.occur .readUncorrectable).offer .poison a 0).deliveryReport a kind y loc
      (if s.queue.length < 8 then .queued else .dropped)) := by
  rw [s.takeBeat_none a h, lineOf, hv, ← s.deliverBad_absent a kind y loc h]
  simp only [hs]

/-- A beat waits for a FILLING line (R34, case 3). -/
theorem State.takeBeat_filling (s : State) (a line : Nat) (early : Bool) (slots : List RaSlot)
    (h : newestEntry s.queue a = none) (hf : s.readAhead.entryFor (a / 8) = .filling line early slots) :
    s.takeBeat a = (.wait (.onLine line), s) := by
  rw [s.takeBeat_none a h, lineOf, hf]

/-- Without a queue entry and a read-ahead line a beat goes to the array (R34, case 4). -/
theorem State.takeBeat_array (s : State) (a : Nat) (h : newestEntry s.queue a = none)
    (he : s.readAhead.entryFor (a / 8) = .empty) : s.takeBeat a = (s.arrayCase a, s) := by
  rw [s.takeBeat_none a h, lineOf, he]

/-! ### One beat by its answer -/

/-- The state in which beat `i` is taken: where the beat is handed to the Read Path now and is the first of its run in a
line, the line has been touched (R71). -/
def State.touched (s : State) (fresh : Bool) (req : Request) (i : Nat) : State :=
  if (fresh && (i = 0 || req.beatAddress i % 8 = 0)) = true then s.touchLine (req.beatAddress i) else s

section
variable (req : Request) (marks : Option (List Bool)) (fresh : Bool) (s : State) (i : Nat) (hi : i < req.count)
include hi

/-- A beat marked out of range is answered zero OK, and the burst goes on (R26). -/
theorem State.serveBeats_out (hm : markedInRange marks i = false) :
    State.serveBeats req marks (req.count - i) fresh s =
      State.serveBeats req marks (req.count - (i + 1)) true (s.respond (.beatOk 0)) := by
  rw [show req.count - i = req.count - (i + 1) + 1 by omega, State.serveBeats,
    show req.count - (req.count - (i + 1) + 1) = i by omega]
  simp [hm]

/-- The service of a beat in range, by the answer of the Read Path (R34 to R36). -/
theorem State.serveBeats_in (hm : markedInRange marks i = true) :
    State.serveBeats req marks (req.count - i) fresh s =
      match (s.touched fresh req i).takeBeat (req.beatAddress i) with
      | (.data w, u) => State.serveBeats req marks (req.count - (i + 1)) true (u.respond (.beatOk w))
      | (.error, u) => (u.respond .beatError).endTransaction
      | (.wait w, u) => u.waitBeat req marks i w := by
  conv => lhs; rw [show req.count - i = req.count - (i + 1) + 1 by omega, State.serveBeats]
  rw [show req.count - (req.count - (i + 1) + 1) = i by omega]
  exact if_pos hm

/-- A beat answered with data, and the burst goes on (R34). -/
theorem State.serveBeats_data (hm : markedInRange marks i = true) (w : Word) (u : State)
    (h : (s.touched fresh req i).takeBeat (req.beatAddress i) = (.data w, u)) :
    State.serveBeats req marks (req.count - i) fresh s =
      State.serveBeats req marks (req.count - (i + 1)) true (u.respond (.beatOk w)) := by
  rw [State.serveBeats_in req marks fresh s i hi hm, h]

/-- A beat answered ERROR ends the burst (R36). -/
theorem State.serveBeats_error (hm : markedInRange marks i = true) (u : State)
    (h : (s.touched fresh req i).takeBeat (req.beatAddress i) = (.error, u)) :
    State.serveBeats req marks (req.count - i) fresh s = (u.respond .beatError).endTransaction := by
  rw [State.serveBeats_in req marks fresh s i hi hm, h]

/-- A beat that waits (R35). -/
theorem State.serveBeats_wait (hm : markedInRange marks i = true) (w : BeatWait) (u : State)
    (h : (s.touched fresh req i).takeBeat (req.beatAddress i) = (.wait w, u)) :
    State.serveBeats req marks (req.count - i) fresh s = u.waitBeat req marks i w := by
  rw [State.serveBeats_in req marks fresh s i hi hm, h]

end

/-- A beat taken again touches nothing (R71). -/
theorem State.touched_again (s : State) (req : Request) (i : Nat) : s.touched false req i = s := rfl

/-- The first beat of a read touches its line (R71). -/
theorem State.touched_first (s : State) (req : Request) : s.touched true req 0 = s.touchLine req.address.toNat := rfl

/-! ### Beats taken again -/

/-- Commands that leave one state before the end of the event leave one state. -/
theorem next_settle_congr {s t : State} (h : s = t) :
    (.next s.settle : Host.Outcome State Fault Refusal) = .next t.settle := by
  rw [h]

/-- A beat that is handed over touches its line where it begins a run (R71). -/
theorem State.onBeat_cases (s : State) (req : Request) (marks : Option (List Bool)) (i : Nat) :
    let a := req.address.toNat + i
    (i + 1 = req.count → s.afterBeat req marks i = .next ({ s with txn := none, port := .ready } : State).settle) ∧
    (i + 1 ≠ req.count → s.afterBeat req marks i = exec .readBeatRetaken (s.onBeat req marks (i + 1))) ∧
    (markedInRange marks i = true → i = 0 ∨ a % 8 = 0 → s.onBeat req marks i =
      { s.touchLine a with port := .readActive, txn := some ⟨req, marks, .read i .over⟩ }) ∧
    (¬ (markedInRange marks i = true ∧ (i = 0 ∨ a % 8 = 0)) → s.onBeat req marks i =
      { s with port := .readActive, txn := some ⟨req, marks, .read i .over⟩ }) := by
  refine ⟨fun h => if_pos h, fun h => if_neg h, fun hm hb => ?_, fun h => ?_⟩
  · simp only [State.onBeat, if_pos (And.intro hm hb)]
  · simp only [State.onBeat, if_neg h]

/-- The wait of a beat is over where it waited for a line that is no longer FILLING (R35). -/
theorem State.waitOver_of (s : State) (w : BeatWait) (h : w = .over ∨ ∃ line, w = .onLine line ∧
    ∀ l early slots, s.readAhead.entryFor line ≠ .filling l early slots) : s.waitOver w = true := by
  rcases h with rfl | ⟨line, rfl, hf⟩
  · rfl
  · unfold State.waitOver
    dsimp only
    split
    · rename_i l early slots he
      exact absurd he (hf l early slots)
    · rfl

/-- Settles O12: a beat taken again, case by case of R34. -/
theorem waitingBeatTakenAgain : Obligations.WaitingBeatTakenAgain := by
  refine ⟨State.onBeat_cases, fun s req marks i w hp ht hi hw => ?_⟩
  intro a answered ended waits
  have retaken := exec_readBeatRetaken s req marks i w hp ht (s.waitOver_of w hw)
  have data (hm : markedInRange marks i = true) (d : Word) (h : s.takeBeat a = (.data d, s)) :
      exec .readBeatRetaken s = answered d := by
    rw [retaken, State.serveBeats_data req marks false s i hi hm d s h]
    exact (State.afterBeat_eq _ req marks i hi).symm
  have error (hm : markedInRange marks i = true) (u : State) (h : s.takeBeat a = (.error, u)) :
      exec .readBeatRetaken s = .next (ended u).settle := by
    rw [retaken, State.serveBeats_error req marks false s i hi hm u h]
    rfl
  have wait (hm : markedInRange marks i = true) (v : BeatWait) (h : s.takeBeat a = (.wait v, s)) :
      exec .readBeatRetaken s = .next (waits v).settle := by
    rw [retaken, State.serveBeats_wait req marks false s i hi hm v s h, State.waitBeat, ← hp]
  refine ⟨fun hm => ?_, fun hm => ⟨fun e he hk hl => data hm _ (s.takeBeat_full a e he hk hl),
    fun e he hk => error hm _ (s.takeBeat_poison a e he hk), fun e he hk hl => ?_, fun hn =>
    ⟨fun line early slots d hv hs => data hm d (s.takeBeat_good a line early slots d hn hv hs),
    fun line early slots d kind y loc hv hs => error hm _ (s.takeBeat_bad a line early slots d kind y loc hn hv hs),
    fun line early slots hf => wait hm _ (s.takeBeat_filling a line early slots hn hf), fun he =>
    ⟨fun hf hw => data hm 0 ?_, fun h => wait hm .onArray ?_⟩⟩⟩⟩
  · rw [retaken, State.serveBeats_out req marks false s i hi hm]
    exact (State.afterBeat_eq _ req marks i hi).symm
  · obtain ⟨k, hk, hplace⟩ := s.takeBeat_partial a e he hk hl
    exact ⟨k, wait hm _ hk, hplace⟩
  · rw [s.takeBeat_array a hn he, s.arrayCase_unfilled a hf hw]
  · rw [s.takeBeat_array a hn he, s.arrayCase_filled a h]

/-! ### The decode of a plain beat -/

/-- A detection that can be corrected is offered as a REPAIR and reported (R63, R94). -/
theorem State.foregroundReport_corrected (s : State) (d : Decoded) (a : Nat) (k : Location)
    (h : d.outcome = .corrected) : s.foregroundReport d a k false false =
      ((s.offer .repair a d.data).arrive ⟨a, k, .corrected, d.bit, d.syndrome, .read, offerAnswer s.queue a,
        false⟩).occur .corrected := by
  rw [State.foregroundReport, detected_corrected d h]
  rfl

/-- A word that cannot be read is offered as POISON and reported (R63, R81, R94). -/
theorem State.foregroundReport_fails (s : State) (w : StoredWord) (a : Nat) (k : Location) (locked : Bool)
    (kind : Detected) (h : (decode w).Fails kind) : s.foregroundReport (decode w) a k locked false =
      ((s.offer .poison a 0).arrive ⟨a, k, kind, none, (decode w).syndrome, if locked then .lockedRead else .read,
        offerAnswer s.queue a, true⟩).occur .readUncorrectable := by
  have hk : offeredKind kind = .poison := by rcases h with ⟨_, rfl⟩ | ⟨_, rfl⟩ <;> rfl
  rw [State.foregroundReport, h.detected]
  simp [foregroundOffers, foregroundRepair, offeredData, hk, h.not_corrected, h.readFault,
    arrivalOf_fails w kind h]

/-- A foreground read's report leaves the transaction, what has been sent and the array. -/
theorem State.foregroundReport_frame (s : State) (d : Decoded) (a : Nat) (k : Location) (locked orphan : Bool) :
    (s.foregroundReport d a k locked orphan).txn = s.txn ∧
      (s.foregroundReport d a k locked orphan).upSent = s.upSent ∧
      (s.foregroundReport d a k locked orphan).mem = s.mem := by
  unfold State.foregroundReport
  split
  · simp
  · dsimp only
    split <;> simp

/-- A usable decode answers the beat OK, and the burst goes on (R34, R63). -/
theorem State.answerBeat_usable (s : State) (d : Decoded) (req : Request) (marks : Option (List Bool)) (i : Nat)
    (w : BeatWait) (ht : s.txn = some ⟨req, marks, .read i w⟩) (h : d.outcome = .clean ∨ d.outcome = .corrected) :
    s.answerBeat d = State.serveBeats req marks (req.count - (i + 1)) true (s.respond (.beatOk d.data)) := by
  rcases h with h | h <;> simp only [State.answerBeat, ht, h]

/-- Any other answers the beat ERROR, which ends the burst (R36, R63). -/
theorem State.answerBeat_fails (s : State) (d : Decoded) (req : Request) (marks : Option (List Bool)) (i : Nat)
    (w : BeatWait) (ht : s.txn = some ⟨req, marks, .read i w⟩) (kind : Detected) (h : d.Fails kind) :
    s.answerBeat d = (s.respond .beatError).endTransaction := by
  rcases h with ⟨h, _⟩ | ⟨h, _⟩ <;> simp only [State.answerBeat, ht, h]

/-- The end of a plain beat's array read: the report of its decode, then the answer (R63). -/
theorem exec_foregroundRead (s : State) (a loc : Nat) (k : Location) (u : Upset) (hm : s.mem.wf = true)
    (hg : s.grant = some ⟨.foreground a loc k false, false⟩) :
    exec (.foregroundRead u) s = .next (((s.opened loc u).foregroundReport (decode (s.found loc u)) a k false
      false).answerBeat (decode (s.found loc u))).settle := by
  simp [exec, execForegroundRead, hg, State.opened_read s loc u hm]

/-- The last answer of a read, in a state that has sent what an earlier one has (R36). -/
theorem State.endTransaction_respond (s t : State) (y : UpResponse) (h : t.upSent = s.upSent) :
    (t.respond y).endTransaction = { t with txn := none, port := .ready, upSent := s.upSent ++ [y] } := by
  rw [← h]
  rfl

/-- Settles O15: the report by the decode's outcome, and the answer that follows it. -/
theorem foregroundReadDecoded : Obligations.ForegroundReadDecoded := by
  intro s a loc k u req marks i w hm hg ht d r done
  have ends := exec_foregroundRead s a loc k u hm hg
  have frame := r.foregroundReport_frame d a k false false
  have clean (h : d.outcome = .clean) : r.foregroundReport d a k false false = r :=
    r.foregroundReport_clean d a k false false h
  have corrected (h : d.outcome = .corrected) := r.foregroundReport_corrected d a k h
  obtain ⟨htxn, hsent, hmem⟩ := frame
  have served (h : d.outcome = .clean ∨ d.outcome = .corrected) : exec (.foregroundRead u) s =
      .next (State.serveBeats req marks (req.count - (i + 1)) true
        ((r.foregroundReport d a k false false).respond (.beatOk d.data))).settle := by
    rw [ends]
    exact next_settle_congr (State.answerBeat_usable _ d req marks i w (htxn.trans ht) h)
  have last (h : d.outcome = .clean ∨ d.outcome = .corrected) (hi : i + 1 = req.count) :
      exec (.foregroundRead u) s =
        .next (done (r.foregroundReport d a k false false) (.beatOk d.data)).settle := by
    rw [served h, hi, Nat.sub_self, State.serveBeats, State.endTransaction_respond r _ _ hsent]
  have failed (kind : Detected) (h : d.Fails kind) : exec (.foregroundRead u) s =
      .next (done (r.foregroundReport d a k false false) .beatError).settle := by
    rw [ends]
    exact next_settle_congr ((State.answerBeat_fails _ d req marks i w (htxn.trans ht) kind h).trans
        (State.endTransaction_respond r _ _ hsent))
  refine ⟨holds_disturbed s loc u hm, fun h hi => ?_, fun h hi => ?_, fun hi => ⟨fun h => ?_, fun h => ?_⟩,
    fun h => ?_, fun kind h => ?_⟩
  · rw [last (.inl h) hi, clean h]
  · rw [last (.inr h) hi, corrected h]
  · rw [served (.inl h), clean h, State.afterBeat_eq _ req marks i hi]
  · rw [served (.inr h), corrected h, State.afterBeat_eq _ req marks i hi]
  · obtain ⟨⟨l, hl⟩, hm', _⟩ := State.serveBeats_frame req marks (req.count - (i + 1)) true
      ((r.foregroundReport d a k false false).respond (.beatOk d.data))
    refine ⟨_, l, served h, ?_, ?_⟩
    · simp only [State.settle_frame, hl]
      exact (congrArg (· ++ [_] ++ l) hsent).trans (List.append_assoc ..)
    · simp only [State.settle_frame, hm']
      exact hmem
  · rw [failed kind h, r.foregroundReport_fails (s.found loc u) a k false kind h]
    rfl

end Sys2Proof.Machine
end

section
/-! A taken plain read (R26, R34, R49, R62, R71, R76): the touches of a burst, the burst forwarded from the queue, the
burst beyond V, and the first beat by what it finds. -/

namespace Sys2Proof.Machine

/-! ### What a touch leaves -/

/-- A touch leaves all that decides what a beat finds but the read-ahead buffer (R71). -/
theorem State.touchLine_frame (s : State) (a : Nat) :
    (s.touchLine a).queue = s.queue ∧ (s.touchLine a).upSent = s.upSent ∧ (s.touchLine a).fill = s.fill ∧
    (s.touchLine a).straps = s.straps ∧ (s.touchLine a).spareMap = s.spareMap := by
  obtain ⟨ra, g, h, _⟩ := s.touchLine_eq a
  rw [h]
  exact ⟨rfl, rfl, rfl, rfl, rfl⟩

/-- The translation depends on the map and the straps alone (R60). -/
theorem State.translate_congr (s t : State) (a : Nat) (hm : t.spareMap = s.spareMap) (hs : t.straps = s.straps) :
    t.translate a = s.translate a := by
  rw [State.translate, State.translate, hm, hs]

theorem State.touchLine_translate (s : State) (x a : Nat) : (s.touchLine x).translate a = s.translate a := by
  obtain ⟨_, _, _, hs, hm⟩ := s.touchLine_frame x
  exact State.translate_congr _ _ a hm hs

/-! ### A touch does not look at what has been sent -/

/-- A state that has sent these responses. -/
def State.withSent (s : State) (ys : List UpResponse) : State := { s with upSent := ys }

theorem State.withSent_zeroFill (n : Nat) (ys : List UpResponse) : ∀ s : State,
    (s.withSent ys).zeroFill n = (s.zeroFill n).withSent ys := by
  induction n with
  | zero => exact fun _ => rfl
  | succ n ih =>
    intro s
    have same_word : (s.withSent ys).prefetchWord = s.prefetchWord := rfl
    simp only [State.zeroFill, same_word]
    split
    · rfl
    · rename_i i a _
      have same_location : (s.withSent ys).unfilled ((s.withSent ys).translate a).1 = s.unfilled (s.translate a).1 := rfl
      rw [same_location]
      split
      · exact ih (s.fillSlot i (.good 0))
      · rfl

theorem State.withSent_touchLine (s : State) (ys : List UpResponse) (a : Nat) :
    (s.withSent ys).touchLine a = (s.touchLine a).withSent ys := by
  have same_condition : ((s.withSent ys).settings.readAhead && (s.withSent ys).mayPrefetch (lineOf a + 1)) =
    (s.settings.readAhead && s.mayPrefetch (lineOf a + 1)) := rfl
  simp only [State.touchLine, same_condition]
  split
  · exact State.withSent_zeroFill 16 ys { s with
      readAhead := s.readAhead.start (lineOf a + 1), grant := detached (fun i => i = s.readAhead.taken) s.grant }
  · rfl

theorem State.withSent_touched (s : State) (ys : List UpResponse) (req : Request) (i : Nat) :
    (s.withSent ys).touched true req i = (s.touched true req i).withSent ys := by
  simp only [State.touched]
  split
  · exact s.withSent_touchLine ys _
  · rfl

theorem State.touched_queue (s : State) (req : Request) (i : Nat) : (s.touched true req i).queue = s.queue := by
  unfold State.touched
  split
  · exact (s.touchLine_frame _).1
  · rfl

theorem State.touched_upSent (s : State) (req : Request) (i : Nat) : (s.touched true req i).upSent = s.upSent := by
  unfold State.touched
  split
  · exact (s.touchLine_frame _).2.1
  · rfl

/-! ### The touches of a burst -/

/-- The state after the last `n` beats of a burst have touched their lines. -/
def State.touchedBy (req : Request) : Nat → State → State
  | 0, s => s
  | n + 1, s => State.touchedBy req n (s.touched true req (req.count - (n + 1)))

theorem State.withSent_touchedBy (req : Request) (ys : List UpResponse) (n : Nat) : ∀ s : State,
    State.touchedBy req n (s.withSent ys) = (State.touchedBy req n s).withSent ys := by
  induction n with
  | zero => exact fun _ => rfl
  | succ n ih => exact fun s => by rw [State.touchedBy, State.withSent_touched, ih, State.touchedBy]

/-- Of at most eight beats after the first only the one that begins a line touches it (R71). -/
theorem State.touchedBy_later (req : Request) (n : Nat) : n ≤ 8 → n < req.count → ∀ s : State,
    let next := 8 * ((req.address.toNat + (req.count - n) - 1) / 8 + 1)
    State.touchedBy req n s = if next < req.address.toNat + req.count then s.touchLine next else s := by
  induction n with
  | zero =>
    intro _ hc s
    dsimp only
    rw [if_neg (by omega)]
    rfl
  | succ n ih =>
    intro h8 hc s
    dsimp only
    rw [State.touchedBy, ih (by omega) (by omega)]
    by_cases hb : (req.address.toNat + (req.count - (n + 1))) % 8 = 0
    · have touches : s.touched true req (req.count - (n + 1)) =
          s.touchLine (req.address.toNat + (req.count - (n + 1))) := by
        simp [State.touched, Request.beatAddress, hb]
      rw [if_neg (by omega), if_pos (by omega), touches]
      congr 1
      omega
    · have passes : s.touched true req (req.count - (n + 1)) = s := by
        simp only [State.touched, Request.beatAddress, hb, show req.count - (n + 1) ≠ 0 by omega]
        rfl
      have line : (req.address.toNat + (req.count - n) - 1) / 8 =
          (req.address.toNat + (req.count - (n + 1)) - 1) / 8 := by omega
      rw [passes, line]

/-- A burst of at most eight beats touches the line of its first beat, and the next line where it reaches it (R71). -/
theorem State.touchedBy_burst (s : State) (req : Request) (h1 : 1 ≤ req.count) (h8 : req.count ≤ 8) :
    let first := s.touchLine req.address.toNat
    let second := 8 * (req.address.toNat / 8 + 1)
    State.touchedBy req req.count s =
      if second < req.address.toNat + req.count then first.touchLine second else first := by
  intro first second
  obtain ⟨m, hm⟩ : ∃ m, req.count = m + 1 := ⟨req.count - 1, by omega⟩
  have later := State.touchedBy_later req m (by omega) (by omega) first
  rw [show req.address.toNat + (req.count - m) - 1 = req.address.toNat by omega] at later
  conv => lhs; rw [hm, State.touchedBy, show req.count - (m + 1) = 0 by omega]
  exact later

/-! ### Whole bursts -/

/-- A burst beyond V under QUIET is answered with zero beats OK, and touches no line (R26, R71). -/
theorem State.serveBeats_beyond (req : Request) (marks : Option (List Bool)) (n : Nat) : n ≤ req.count →
    (∀ i, req.count - n ≤ i → i < req.count → markedInRange marks i = false) → ∀ (fresh : Bool) (s : State),
    State.serveBeats req marks n fresh s =
      { s with txn := none, port := .ready, upSent := s.upSent ++ List.replicate n (.beatOk 0) } := by
  induction n with
  | zero =>
    intro _ _ fresh s
    rw [List.replicate_zero, List.append_nil]
    rfl
  | succ n ih =>
    intro hn hm fresh s
    have step := State.serveBeats_out req marks fresh s (req.count - (n + 1)) (by omega)
      (hm _ (Nat.le_refl _) (by omega))
    rw [show req.count - (req.count - (n + 1)) = n + 1 by omega,
      show req.count - (req.count - (n + 1) + 1) = n by omega] at step
    rw [step, ih (by omega) fun i hi => hm i (by omega)]
    simp [State.respond, List.replicate_succ]

/-- A burst whose words all have a full-lane queue entry is forwarded from the queue, beat by beat, each line touched
where the burst comes to it (R34, case 1; R49, R71). -/
theorem State.serveBeats_forwarded (req : Request) (marks : Option (List Bool)) (data : Nat → Word) (n : Nat) :
    n ≤ req.count → ∀ s : State,
    (∀ i, req.count - n ≤ i → i < req.count → markedInRange marks i = true ∧
      ∃ e, newestEntry s.queue (req.address.toNat + i) = some e ∧ e.kind ≠ .poison ∧ e.lanes = .full ∧ e.data = data i) →
    State.serveBeats req marks n true s =
      { State.touchedBy req n s with
        txn := none, port := .ready,
        upSent := s.upSent ++ (List.range' (req.count - n) n).map fun i => .beatOk (data i) } := by
  induction n with
  | zero =>
    intro _ s _
    rw [List.range'_zero, List.map_nil, List.append_nil]
    rfl
  | succ n ih =>
    intro hn s hd
    obtain ⟨hm, e, he, hk, hl, hdata⟩ := hd _ (Nat.le_refl _) (by omega)
    let t := s.touched true req (req.count - (n + 1))
    have forwarded : t.takeBeat (req.beatAddress (req.count - (n + 1))) = (.data (data (req.count - (n + 1))), t) := by
      rw [← hdata]
      exact t.takeBeat_full _ e (s.touched_queue req _ ▸ he) hk hl
    have step := State.serveBeats_data req marks true s (req.count - (n + 1)) (by omega) hm _ t forwarded
    rw [show req.count - (req.count - (n + 1)) = n + 1 by omega,
      show req.count - (req.count - (n + 1) + 1) = n by omega] at step
    have sent : t.respond (.beatOk (data (req.count - (n + 1)))) =
        t.withSent (s.upSent ++ [.beatOk (data (req.count - (n + 1)))]) := by
      rw [← s.touched_upSent req (req.count - (n + 1))]
      rfl
    have queue : (t.withSent (s.upSent ++ [.beatOk (data (req.count - (n + 1)))])).queue = s.queue :=
      s.touched_queue req _
    rw [step, sent, ih (by omega) _ fun i hi => queue ▸ hd i (by omega), State.withSent_touchedBy,
      List.range'_succ, List.map_cons, show req.count - (n + 1) + 1 = req.count - n by omega,
      List.append_cons s.upSent _ (List.map _ _)]
    rfl

/-! ### A taken read -/

/-- Settles O7: the request as its first beat, the two whole bursts, and the first beat case by case of R34. -/
theorem plainReadServed : Obligations.PlainReadServed := by
  refine ⟨rfl, fun a n p s hw hp ha => ?_⟩
  let req := readOf a n false p
  let marks := s.marksOf req
  obtain ⟨hn1, hn8⟩ : 1 ≤ n ∧ n ≤ 8 := (wellFormed_request_iff (.readRequest a n p) req rfl).mp hw
  have taken : exec (.readRequest a n p) s = .next (State.serveBeats req marks n true s).settle :=
    exec_admitted _ req s rfl hw hp ha
  have marked (i : Nat) (hi : i < n) : markedInRange marks i = true ↔ a.toNat + i < s.straps.visible :=
    s.marked_iff_visible req ha.2.2.1 i hi
  refine ⟨fun i hi => s.markedInRange_marksOf req i hi, ?_, fun hv => ?_, fun data hd => ?_, fun hv => ?_⟩
  · rw [taken]
    exact (serveBeats_onBeat s req marks 0 hn1).symm
  · have out (i : Nat) (hi : i < n) : markedInRange marks i = false := by
      rw [← Bool.not_eq_true, marked i hi]
      omega
    rw [taken, State.serveBeats_beyond req marks n (Nat.le_refl _) fun i _ => out i]
  · intro first second
    have forwarded := State.serveBeats_forwarded req marks data req.count (Nat.le_refl _) s fun i _ hi =>
      ⟨(marked i hi).mpr (hd i hi).1, (hd i hi).2⟩
    rw [s.touchedBy_burst req hn1 hn8, Nat.sub_self, ← List.range_eq_range'] at forwarded
    rw [taken]
    exact next_settle_congr forwarded
  · intro r done waits
    have hm : markedInRange marks 0 = true := (marked 0 hn1).mpr hv
    obtain ⟨hq, hsent, hfill, _⟩ := s.touchLine_frame a.toNat
    have error (u : State) (hu : u.upSent = s.upSent) (h : r.takeBeat a.toNat = (.error, u)) :
        exec (.readRequest a n p) s = .next (done u .beatError).settle := by
      have ends := State.serveBeats_error req marks true s 0 hn1 hm u h
      rw [State.endTransaction_respond s u _ hu] at ends
      rw [taken]
      exact next_settle_congr ends
    have data (d : Word) (hn : n = 1) (h : r.takeBeat a.toNat = (.data d, r)) :
        exec (.readRequest a n p) s = .next (done r (.beatOk d)).settle := by
      have ends := State.serveBeats_data req marks true s 0 hn1 hm d r h
      rw [show req.count - (0 + 1) = 0 by
        show n - 1 = 0
        omega, State.serveBeats, State.endTransaction_respond s r _ hsent] at ends
      rw [taken]
      exact next_settle_congr ends
    have wait (w : BeatWait) (h : r.takeBeat a.toNat = (.wait w, r)) :
        exec (.readRequest a n p) s = .next (waits w).settle := by
      rw [taken]
      exact next_settle_congr (State.serveBeats_wait req marks true s 0 hn1 hm w r h)
    refine ⟨fun e he hk => error _ (by simpa using hsent) (r.takeBeat_poison _ e (hq ▸ he) hk), fun e he hk hl => ?_,
      fun hn => ?_⟩
    · obtain ⟨i, hi, hplace⟩ := r.takeBeat_partial a.toNat e (hq ▸ he) hk hl
      rw [hq] at hplace
      exact ⟨i, wait _ hi, hplace⟩
    have hr : newestEntry r.queue a.toNat = none := hq ▸ hn
    refine ⟨fun line early slots d hl hs h1 => data d h1 (r.takeBeat_good _ line early slots d hr hl hs),
      fun line early slots d kind y loc hl hs => ?_,
      fun line early slots hf => wait _ (r.takeBeat_filling _ line early slots hr hf), fun he =>
      ⟨fun hf hw h1 => data 0 h1 ?_, fun h => wait .onArray ?_⟩⟩
    · have bad := r.takeBeat_bad _ line early slots d kind y loc hr hl hs
      rw [hq] at bad
      exact error _ (by simpa using hsent) bad
    · rw [r.takeBeat_array _ hr he, r.arrayCase_unfilled _ (hfill ▸ hf) (by rw [hfill, s.touchLine_translate]; exact hw)]
    · rw [r.takeBeat_array _ hr he, r.arrayCase_filled _ (by rw [hfill, s.touchLine_translate]; exact h)]

end Sys2Proof.Machine
end

section
/-! Power-on, the ends of a reset, and the invariants right after power-on (R38, R39, R59, R133, R134, R150, R161, R174,
R182). -/

namespace Sys2Proof.Machine

/-! ### Power-on -/

/-- Right after power-on the fill alone asks for the array (R65, R133). -/
theorem State.poweredOn_winner (s : State) (straps : Straps) (level : Bool) :
    (s.poweredOn straps level).winner = some .fill := rfl

/-- At power-on the fill is granted from location 0, and no class has been passed over (R64, R67, R133). -/
theorem State.poweredOn_settle (s : State) (straps : Straps) (level : Bool) :
    (s.poweredOn straps level).settle = { s.poweredOn straps level with grant := some ⟨.fill 0, false⟩ } := by
  have not_skip : ¬ ((s.poweredOn straps level).winner = some .scrub ∧
      (s.poweredOn straps level).scrubSkips = true) := by
    rw [State.poweredOn_winner]
    rintro ⟨h, _⟩
    cases h
  rw [State.settle_idle _ rfl, State.arbitrate_grant _ not_skip, State.poweredOn_winner]
  rfl

/-- Every source is CLEAR with its default reaction at power-on, and no snapshot is set (R150, R161). -/
theorem faultUnit_initial (src : FaultSource) :
    FaultUnit.initial.sources.get src = ⟨false, 0, defaultReactions.get src⟩ ∧
      FaultUnit.initial.snapshot.get src = false := by
  cases src <;> exact ⟨rfl, rfl⟩

/-- Every slot is FREE at power-on (R131). -/
theorem reset_spareMap (n : Fin 8) : State.reset.spareMap.get n = .free := by
  revert n
  decide

/-- Settles O50: the settings item by item, then the part block by block. -/
theorem powerOnState : Obligations.PowerOnState := by
  refine ⟨fun straps => ⟨defaultReactions, rfl, rfl, rfl⟩, fun straps level s => ?_⟩
  refine ⟨{ s.poweredOn straps level with grant := some ⟨.fill 0, false⟩ }, ?_, rfl, rfl, rfl, rfl, rfl, rfl, rfl, rfl,
    rfl, rfl, reset_spareMap, rfl, rfl, rfl, rfl, faultUnit_initial, rfl, rfl, rfl, rfl, rfl, rfl, rfl, rfl, rfl, rfl,
    rfl, rfl, rfl, rfl, rfl, rfl, rfl, rfl, rfl, rfl, rfl⟩
  rw [← State.poweredOn_settle]
  rfl

/-! ### The ends of a reset -/

/-- A system reset is over when RST_N is high, the queue is empty and no fill is still to begin (R38, R59, R134). -/
theorem State.resetOver_iff (s : State) :
    s.resetOver = true ↔ s.resetInProgress = true ∧ s.rstN = true ∧ s.queue = [] ∧ s.fill.due = false := by
  simp [State.resetOver, and_assoc]

/-- RST_N_RISES, where the line is low. -/
theorem exec_rstNRises (s : State) : exec .rstNRises s = .next (if s.rstN then s else { s with
    rstN := true, port := if s.port = .reset ∧ s.resetInProgress = false then .ready else s.port }) :=
  (apply_ite _ _ _ _).symm

/-- RESET_COMPLETES, where the reset is over. -/
theorem exec_resetCompletes (s : State) : exec .resetCompletes s =
    .next (if s.resetOver then ({ s with resetInProgress := false, port := .ready } : State).settle else s) :=
  (apply_ite _ _ _ _).symm

/-- FILL_BEGINS, where a fill is due and the array is free. -/
theorem exec_fillBegins (s : State) : exec .fillBegins s =
    .next (if s.fill.due = true ∧ s.grant = none then ({ s with fill := ⟨true, 0, false⟩ } : State).settle else s) :=
  (apply_ite _ _ _ _).symm

/-- Settles O52: each of the three commands where it comes about and where it does not. -/
theorem resetEnds : Obligations.ResetEnds := by
  intro s
  rw [exec_rstNRises, exec_resetCompletes, exec_fillBegins]
  have ended := s.resetOver_iff
  refine ⟨fun h => ?_, fun h => ?_, fun hr hn hq hd => ?_, fun h => ?_, fun hd hg => ?_, fun _ hg => ?_⟩
  · rw [if_neg (by rw [h]; exact Bool.false_ne_true)]
  · rw [if_pos h]
  · rw [if_pos (ended.mpr ⟨hr, hn, hq, hd⟩)]
  · rw [if_neg (ended.not.mpr h)]
  · rw [if_pos ⟨hd, hg⟩]
  · rw [if_neg fun h => hg h.2]

/-! ### The invariants right after power-on -/

/-- A CLEAR source with its configured reaction is consistent (R149). -/
theorem sourceOk_cleared (r : Reaction) : SourceOk (.cleared r) r :=
  ⟨Nat.le_refl _, ⟨fun _ => rfl, fun _ => rfl⟩, Nat.zero_le _, fun _ => rfl, fun h => (Bool.false_ne_true h).elim⟩

/-- The Fault Unit is consistent at power-on (R161). -/
theorem faultsOk_initial : FaultsOk FaultUnit.initial defaultReactions := by
  have clear (src : FaultSource) : FaultUnit.initial.sources.get src = .cleared (defaultReactions.get src) :=
    (faultUnit_initial src).1
  refine ⟨fun src => ⟨clear src ▸ sourceOk_cleared _, clear src ▸ Nat.zero_le _⟩, fun h => ?_, ?_⟩
  · exact (Bool.false_ne_true h).elim
  · rintro ⟨src, h, _⟩
    rw [clear src] at h
    exact (Bool.false_ne_true h).elim

/-- With every slot FREE and the engine IDLE the Spare Map is consistent (R113). -/
theorem mapOk_of_free (map : PerSlot SpareEntry) (h : ∀ n, map.get n = .free) : MapOk map none := by
  refine ⟨fun n => ?_, fun n k line hn => ?_, fun n line cursor origin previous hn => ?_⟩
  · simp [h n, SpareEntry.isCopying]
  · simp [h n, SpareEntry.activeLine] at hn
  · simp [h n] at hn

/-- The fill is FILLING from location 0, for which its grant is (R133). -/
theorem fillOk_reset : FillOk State.reset := by
  refine ⟨fun _ => by decide, fun h => (by cases h), Nat.le_refl _, Nat.zero_le _, fun loc h => ?_⟩
  obtain rfl : 0 = loc := Option.some.inj h
  exact ⟨rfl, rfl⟩

/-- The scrub is STOPPED, the engine IDLE, no fill is due and no command waits (R134, R139, R146). -/
theorem enginesOk_reset : EnginesOk State.reset :=
  ⟨fun h => (h rfl).elim, fun h => (Bool.false_ne_true h).elim, fun h => (Bool.false_ne_true h).elim,
    fun h => (by cases h), fun h => (Bool.false_ne_true h).elim⟩

/-- The settings have their reset values, and there is no lock (R182). -/
theorem timersOk_reset : TimersOk State.reset :=
  ⟨by decide +kernel, by decide, fun l h => (by cases h), by decide +kernel⟩

/-- The link is as R174 says, and no command is being carried out. -/
theorem serviceOk_reset : ServiceOk State.reset := by
  refine ⟨Nat.zero_le _, by decide, fun h => (by cases h), ?_⟩
  rintro ⟨e, h, _⟩
  cases h

/-- Settles O60: each block's invariant right after power-on. -/
theorem invariantsHoldAtReset : Obligations.InvariantsHoldAtReset :=
  ⟨rfl, by decide, by decide, faultsOk_initial, mapOk_of_free _ reset_spareMap, enginesOk_reset, fillOk_reset, by decide,
    timersOk_reset, serviceOk_reset⟩

end Sys2Proof.Machine
end

section
/-! What keeps the queue and the record table well formed (R40 to R42, R91, R92): the operations on a queue and on the
table, and the shared operations on the part. -/

namespace Sys2Proof.Machine

/-! ### Operations on a queue -/

/-- Some of the entries of a well-formed queue, in their order. -/
theorem queueOk_sublist {q r : List Entry} (hr : r.Sublist q) (h : QueueOk q) : QueueOk r := by
  obtain ⟨hlen, hclash, htail, hlanes, hkind⟩ := h
  exact ⟨hr.length_le.trans hlen, hclash.sublist hr, fun e he => htail e (hr.tail.subset he),
    fun e he => hlanes e (hr.subset he), fun e he => hkind e (hr.subset he)⟩

/-- A change of entries that keeps what well-formedness looks at. -/
theorem queueOk_map {q : List Entry} (f : Entry → Entry)
    (hf : ∀ e, (f e).kind = e.kind ∧ (f e).address = e.address ∧ (f e).lanes = e.lanes ∧ (f e).stage = e.stage)
    (h : QueueOk q) : QueueOk (q.map f) := by
  obtain ⟨hlen, hclash, htail, hlanes, hkind⟩ := h
  refine ⟨by simpa using hlen, ?_, ?_, ?_, ?_⟩
  · rw [List.pairwise_map]
    simpa [clash, hf] using hclash
  · rw [← List.map_tail, List.forall_mem_map]
    simpa [hf] using htail
  · rw [List.forall_mem_map]
    simpa [hf] using hlanes
  · rw [List.forall_mem_map]
    simpa [hf] using hkind

/-- The head begins to drain (R42). -/
theorem queueOk_headDraining {q : List Entry} (h : QueueOk q) : QueueOk (headDraining q) := by
  cases q with
  | nil => exact h
  | cons e rest =>
    obtain ⟨hlen, hclash, htail, hlanes, hkind⟩ := h
    obtain ⟨_, hrest⟩ := List.pairwise_cons.mp hclash
    rw [List.forall_mem_cons] at hlanes hkind
    refine ⟨hlen, List.pairwise_cons.mpr ⟨fun f _ => by simp [clash], hrest⟩, htail, ?_, ?_⟩
    · exact List.forall_mem_cons.mpr hlanes
    · exact List.forall_mem_cons.mpr hkind

/-- A system reset discards entries and leaves none awaited (R55, R58, R59). -/
theorem queueOk_resetQueue {q : List Entry} (discard : Bool) (h : QueueOk q) : QueueOk (resetQueue discard q) := by
  refine queueOk_map _ (fun e => ⟨rfl, rfl, rfl, rfl⟩) ?_
  cases discard with
  | false => exact h
  | true => exact queueOk_sublist List.filter_sublist h

/-- The placing of a beat takes one more entry at most (R43). -/
theorem placeBeat_length_le (locked through : Bool) (a : Nat) (b : Beat) (q : List Entry) :
    (placeBeat locked through a b 0 q).queue.length ≤ q.length + 1 := by
  rcases placeBeat_cases locked through a b q 0 with ⟨k, e, _, _, _, _, hp⟩ | ⟨_, hp⟩ <;> rw [hp] <;> simp

/-- Beats that enable a lane and for which there is room keep the queue well formed (R29, R43). -/
theorem State.insertBeats_queueOk (locked through : Bool) (beats : List (Nat × Beat)) : ∀ s : State,
    (∀ x ∈ beats, x.2.lanes ≠ 0) → s.queue.length + beats.length ≤ 8 → QueueOk s.queue →
    QueueOk (s.insertBeats locked through beats).state.queue := by
  induction beats with
  | nil => exact fun _ _ _ h => h
  | cons x rest ih =>
    obtain ⟨a, b⟩ := x
    intro s hl hroom h
    rw [List.length_cons] at hroom
    obtain ⟨hb, hrest⟩ := List.forall_mem_cons.mp hl
    obtain ⟨hq, _⟩ := s.insertBeat_blocks locked through a b
    have hlen := placeBeat_length_le locked through a b s.queue
    refine ih (s.insertBeat locked through a b) hrest (by rw [hq]; omega) ?_
    rw [hq]
    exact placeBeat_ok locked through a b s.queue h (by omega) hb

/-- An insertion does not reach the table. -/
theorem State.insertBeats_records (locked through : Bool) (beats : List (Nat × Beat)) : ∀ s : State,
    (s.insertBeats locked through beats).state.records = s.records := by
  induction beats with
  | nil => exact fun _ => rfl
  | cons x rest ih => exact fun s => (ih (s.insertBeat locked through x.1 x.2)).trans (by simp)

/-- A queued beat enables a lane (R29). -/
theorem lanes_of_queuedBeats (req : Request) (marks : Option (List Bool)) (x : Nat × Beat)
    (h : x ∈ queuedBeats req marks) : x.2.lanes ≠ 0 := by
  obtain ⟨_, _, _, _, hl⟩ := (mem_addressed req marks x req.beats 0).mp h
  exact hl

/-! ### Operations on the table -/

/-- A change of the states of a line's records keeps the table well formed (R106). -/
theorem recordsOk_restated (line : Nat) (p : RecordState → Bool) (st : RecordState) (rs : List ErrRecord)
    (h : RecordsOk rs) : RecordsOk (restated line p st rs) :=
  restated_ok rs _ (fun r => by split <;> exact ⟨rfl, rfl⟩) h

theorem recordsOk_startRecords (line : Nat) (rs : List ErrRecord) (h : RecordsOk rs) :
    RecordsOk (startRecords line rs) :=
  recordsOk_restated line _ _ rs h

theorem recordsOk_reopenRecords (line : Nat) (rs : List ErrRecord) (h : RecordsOk rs) :
    RecordsOk (reopenRecords line rs) :=
  recordsOk_restated line _ _ rs h

theorem recordsOk_spareRecords (line : Nat) (rs : List ErrRecord) (h : RecordsOk rs) :
    RecordsOk (spareRecords line rs) :=
  recordsOk_restated line _ _ rs h

/-- A system reset changes states alone (R112). -/
theorem recordsOk_resetRecords {rs : List ErrRecord} (h : RecordsOk rs) : RecordsOk (resetRecords rs) :=
  restated_ok rs _ (fun r => by split <;> exact ⟨rfl, rfl⟩) h

/-! ### The relation -/

/-- From `s` to `t` the Posted Write Queue stays as R40 to R42 say, and the Error Record Table as R91 and R92 say, each
for itself. -/
def StaysTidy (s t : State) : Prop :=
  (QueueOk s.queue → QueueOk t.queue) ∧ (RecordsOk s.records → RecordsOk t.records)

namespace StaysTidy

theorem refl (s : State) : StaysTidy s s := ⟨id, id⟩

theorem trans {s t u : State} (h : StaysTidy s t) (k : StaysTidy t u) : StaysTidy s u :=
  ⟨k.1 ∘ h.1, k.2 ∘ h.2⟩

theorem of_eq {s t : State} (hq : t.queue = s.queue) (hr : t.records = s.records) : StaysTidy s t :=
  ⟨fun h => hq ▸ h, fun h => hr ▸ h⟩

theorem of_records {s t : State} (hq : t.queue = s.queue) (hr : RecordsOk s.records → RecordsOk t.records) :
    StaysTidy s t :=
  ⟨fun h => hq ▸ h, hr⟩

end StaysTidy

/-- Whatever state the outcome of a command on `s` leaves, its queue and table are as well formed as those of `s`. -/
def OutcomeStaysTidy (s : State) (o : Host.Outcome State Fault Refusal) : Prop :=
  ∀ t, o = .next t → StaysTidy s t

theorem OutcomeStaysTidy.next {s t : State} (h : StaysTidy s t) : OutcomeStaysTidy s (.next t) := by
  rintro _ ⟨⟩
  exact h

/-- A command that leaves the state as it is. -/
theorem OutcomeStaysTidy.same (s : State) : OutcomeStaysTidy s (.next s) := .next (.refl s)

/-- A command that acts under a condition alone. -/
theorem OutcomeStaysTidy.guarded {s t : State} {p : Prop} [Decidable p] (h : StaysTidy s t) :
    OutcomeStaysTidy s (if p then .next t else .next s) := by
  split
  · exact .next h
  · exact .same s

/-! ### The end of an event -/

theorem State.give_staysTidy (s : State) (c : ReqClass) : StaysTidy s (s.give c) := by
  refine ⟨fun h => ?_, id⟩
  show QueueOk (if c = .drain then headDraining s.queue else s.queue)
  split
  · exact queueOk_headDraining h
  · exact h

theorem State.arbitrate_staysTidy (s : State) : StaysTidy s s.arbitrate :=
  State.arbitrate_induction StaysTidy s .refl (fun s c _ _ => s.give_staysTidy c) fun _ _ _ _ _ h => h

theorem State.zeroFill_staysTidy (s : State) (n : Nat) : StaysTidy s (s.zeroFill n) := .of_eq (by simp) (by simp)

theorem State.settle_staysTidy (s : State) : StaysTidy s s.settle :=
  (s.zeroFill_staysTidy 16).trans (s.zeroFill 16).arbitrate_staysTidy

theorem StaysTidy.settle {s t : State} (h : StaysTidy s t) : StaysTidy s t.settle :=
  h.trans t.settle_staysTidy

/-- A command whose effect is followed by the end of the event. -/
theorem OutcomeStaysTidy.settled {s t : State} (h : StaysTidy s t) : OutcomeStaysTidy s (.next t.settle) :=
  .next h.settle

/-! ### Offers, arrivals and reports -/

theorem State.occur_staysTidy (s : State) (src : FaultSource) : StaysTidy s (s.occur src) := .refl s

theorem State.offer_staysTidy (s : State) (kind : EntryKind) (a : Nat) (d : Word) :
    StaysTidy s (s.offer kind a d) :=
  ⟨s.offer_ok kind a d, fun h => by simpa using h⟩

theorem State.arrive_staysTidy (s : State) (a : Arrival) : StaysTidy s (s.arrive a) :=
  .of_records (by simp) (s.arrive_recordsOk a)

theorem State.deliveryReport_staysTidy (s : State) (a : Nat) (kind : Detected) (y : Option Syndrome) (loc : Location)
    (answer : Repair) : StaysTidy s (s.deliveryReport a kind y loc answer) :=
  .of_records (by simp) (s.deliveryReport_recordsOk a kind y loc answer)

theorem State.deliverBad_staysTidy (s : State) (a : Nat) (kind : Detected) (y : Option Syndrome) (loc : Location) :
    StaysTidy s (s.deliverBad a kind y loc) :=
  ((s.occur .readUncorrectable).offer_staysTidy .poison a 0).trans (State.deliveryReport_staysTidy _ a kind y loc _)

theorem State.foregroundReport_staysTidy (s : State) (d : Decoded) (a : Nat) (loc : Location) (locked orphan : Bool) :
    StaysTidy s (s.foregroundReport d a loc locked orphan) := by
  unfold State.foregroundReport
  split
  · exact .refl s
  · refine .trans ?_ (State.arrive_staysTidy _ _)
    split
    · exact s.offer_staysTidy _ _ _
    · exact .refl s

theorem State.prefetchReport_staysTidy (s : State) (d : Decoded) (a : Nat) (loc : Location) (orphan : Bool) :
    StaysTidy s (s.prefetchReport d a loc orphan) := by
  unfold State.prefetchReport
  split
  · exact .refl s
  · refine .trans ?_ (State.arrive_staysTidy _ _)
    cases orphan with
    | true => exact .refl s
    | false => exact s.offer_staysTidy _ _ _
  · exact s.arrive_staysTidy _

theorem State.directReport_staysTidy (s : State) (d : Decoded) (a : Nat) (loc : Location) (source : Source)
    (repair : Detected → Repair) (fault : Detected → FaultSource) :
    StaysTidy s (s.directReport d a loc source repair fault) := by
  unfold State.directReport
  split
  · exact .refl s
  · exact s.arrive_staysTidy _

theorem State.mergeReport_staysTidy (s : State) (d : Option Decoded) (a : Nat) (loc : Location) :
    StaysTidy s (s.mergeReport d a loc) := by
  cases d with
  | none => exact .refl s
  | some d => exact s.directReport_staysTidy d a loc _ _ _

theorem State.scrubReport_staysTidy (s : State) (d : Decoded) (a : Nat) (loc : Location) :
    StaysTidy s (s.scrubReport d a loc) := by
  unfold State.scrubReport
  split
  · exact s.arrive_staysTidy _
  all_goals exact s.directReport_staysTidy d a loc _ _ _

/-! ### The upstream port -/

theorem State.touchLine_staysTidy (s : State) (a : Nat) : StaysTidy s (s.touchLine a) := by
  obtain ⟨ra, g, h, _⟩ := s.touchLine_eq a
  rw [h]
  exact .refl s

theorem State.touched_staysTidy (s : State) (fresh : Bool) (req : Request) (i : Nat) :
    StaysTidy s (s.touched fresh req i) := by
  unfold State.touched
  split
  · exact s.touchLine_staysTidy _
  · exact .refl s

theorem State.takeBeat_staysTidy (s : State) (a : Nat) : StaysTidy s (s.takeBeat a).2 := by
  unfold State.takeBeat
  split
  · split
    · exact s.occur_staysTidy _
    · split <;> exact .refl s
  · split
    · split
      · exact .refl s
      · exact s.deliverBad_staysTidy _ _ _ _
      · exact .refl s
    all_goals exact .refl s

theorem State.serveBeats_staysTidy (req : Request) (marks : Option (List Bool)) (n : Nat) :
    ∀ (fresh : Bool) (s : State), StaysTidy s (State.serveBeats req marks n fresh s) := by
  induction n with
  | zero => exact fun _ s => .refl s
  | succ n ih =>
    intro fresh s
    rw [State.serveBeats]
    dsimp only
    split
    · have htu := (s.touched_staysTidy fresh req (req.count - (n + 1))).trans
        (State.takeBeat_staysTidy _ (req.beatAddress (req.count - (n + 1))))
      unfold State.touched at htu
      split
      · rename_i w u hu
        rw [hu] at htu
        exact htu.trans (ih true (u.respond (.beatOk w)))
      all_goals
        rename_i u hu
        rw [hu] at htu
        exact htu
    · exact ih true (s.respond (.beatOk 0))

theorem State.retakeBeat_staysTidy (s : State) : StaysTidy s s.retakeBeat := by
  unfold State.retakeBeat
  split
  · exact State.serveBeats_staysTidy _ _ _ _ s
  · exact .refl s

theorem State.answerBeat_staysTidy (s : State) (d : Decoded) : StaysTidy s (s.answerBeat d) := by
  unfold State.answerBeat
  split
  · split
    · exact State.serveBeats_staysTidy _ _ _ _ (s.respond _)
    · exact State.serveBeats_staysTidy _ _ _ _ (s.respond _)
    all_goals exact .refl s
  · exact .refl s

/-- A write for whose queued beats there is room (R29). -/
theorem State.insertWrite_staysTidy (s : State) (req : Request) (marks : Option (List Bool)) (posting : PostingMode)
    (hroom : (queuedBeats req marks).length ≤ s.freeEntries) :
    StaysTidy s (s.insertWrite req marks posting) := by
  have inserted : StaysTidy s
      (s.insertBeats req.locked (decide (posting = .through)) (queuedBeats req marks)).state := by
    refine ⟨fun h => ?_, fun h => (State.insertBeats_records _ _ _ s).symm ▸ h⟩
    have ⟨hlen, _⟩ := h
    unfold State.freeEntries at hroom
    exact State.insertBeats_queueOk _ _ _ s (lanes_of_queuedBeats req marks) (by omega) h
  unfold State.insertWrite
  cases posting <;> exact inserted

theorem State.takeWrite_staysTidy (s : State) (req : Request) : StaysTidy s (s.takeWrite req) := by
  unfold State.takeWrite
  extract_lets t need
  split
  · exact .refl s
  · split
    · rename_i hroom
      exact t.insertWrite_staysTidy req _ _ hroom
    · exact .refl s

theorem State.take_staysTidy (s : State) (req : Request) : StaysTidy s (s.take req) := by
  unfold State.take
  split
  · exact State.serveBeats_staysTidy _ _ _ _ s
  · unfold State.takeLockedRead
    split <;> exact .refl s
  · exact s.takeWrite_staysTidy req

theorem State.check_staysTidy (s : State) (req : Request) : StaysTidy s (s.check req) := by
  unfold State.check
  split
  · exact .of_eq (by simp) (by simp)
  · exact s.take_staysTidy req

theorem State.present_staysTidy (s : State) (req : Request) : StaysTidy s (s.present req) := by
  unfold State.present
  split
  · split
    · exact .trans (State.check_staysTidy { s with held := none } req) (State.settle_staysTidy _)
    · exact .refl s
  · exact .refl s

/-! ### Migration -/

theorem State.startMigration_staysTidy (s : State) (line : Nat) (origin : Origin) (n : Fin 8) :
    StaysTidy s (s.startMigration line origin n) :=
  .of_records rfl (recordsOk_startRecords line s.records)

theorem State.releaseLines_staysTidy (n : Nat) : ∀ s : State, StaysTidy s (State.releaseLines n s) := by
  induction n with
  | zero => exact .refl
  | succ n ih =>
    intro s
    unfold State.releaseLines
    split
    · exact .refl s
    · rename_i line _
      have released : StaysTidy s (s.released line) := .of_records rfl (recordsOk_reopenRecords line s.records)
      exact released.trans (ih (s.released line))

theorem State.verified_staysTidy (s : State) (n : Fin 8) (line cursor : Nat) (origin : Origin)
    (previous : Option (Fin 8)) : StaysTidy s (s.verified n line cursor origin previous) := by
  unfold State.verified
  split
  · exact .refl s
  · exact .of_records rfl (recordsOk_spareRecords line s.records)

theorem State.verifyFailed_staysTidy (s : State) (n : Fin 8) (line : Nat) (origin : Origin)
    (previous : Option (Fin 8)) : StaysTidy s (s.verifyFailed n line origin previous) := by
  unfold State.verifyFailed
  dsimp only
  split
  · exact .refl s
  · exact .of_records rfl (recordsOk_reopenRecords line s.records)

theorem State.endVerify_staysTidy (s : State) (n : Fin 8) (equal : Bool) : StaysTidy s (s.endVerify n equal) := by
  unfold State.endVerify
  split
  · split
    · exact s.verified_staysTidy _ _ _ _ _
    · exact s.verifyFailed_staysTidy _ _ _ _
  · exact .refl s

theorem State.endOrphanVerify_staysTidy (s : State) (n : Fin 8) (equal : Bool) :
    StaysTidy s (s.endOrphanVerify n equal) := by
  unfold State.endOrphanVerify
  split <;> exact .refl s

/-! ### Other shared operations -/

theorem State.finish_staysTidy (s : State) (st : Status) (payload : List Byte) :
    StaysTidy s (s.finish st payload) :=
  .of_eq (by simp) (by simp)

theorem State.endScrubGrant_staysTidy (s : State) : StaysTidy s s.endScrubGrant := by
  unfold State.endScrubGrant
  split
  · exact State.finish_staysTidy { s with scrub := s.scrub.stop } .ok []
  · exact .refl s

theorem State.serveWaitingLine_staysTidy (s : State) (line : Nat) : StaysTidy s (s.serveWaitingLine line) := by
  unfold State.serveWaitingLine
  split
  · split
    · exact s.retakeBeat_staysTidy
    · exact .refl s
  · exact .refl s

theorem State.keepPrefetched_staysTidy (s : State) (entry : Option (Fin 2)) (line : Nat) (slot : RaSlot) :
    StaysTidy s (s.keepPrefetched entry line slot) := by
  cases entry with
  | none => exact .refl s
  | some i => exact ((s.fillSlot i slot).zeroFill_staysTidy 16).trans (State.serveWaitingLine_staysTidy _ line)

theorem State.endResponse_staysTidy (s : State) (characters : List Byte) (resetPart : Bool) :
    StaysTidy s (s.endResponse characters resetPart) := .refl s

/-- A break reaches the link and the command in execution. -/
theorem State.breakParser_staysTidy (s : State) (sent : Nat) : StaysTidy s (s.breakParser sent) := by
  unfold State.breakParser
  split
  · exact .refl s
  · exact .refl s
  · exact .refl s
  · exact s.endResponse_staysTidy _ _

theorem State.resumeFrame_staysTidy (s : State) : StaysTidy s s.resumeFrame := .of_eq (by simp) (by simp)

theorem State.systemReset_staysTidy (s : State) : StaysTidy s s.systemReset :=
  ⟨queueOk_resetQueue s.fillToRun, recordsOk_resetRecords⟩

/-- At power-on the queue and the table are empty. -/
theorem State.poweredOn_staysTidy (s : State) (straps : Straps) (rstN : Bool) :
    StaysTidy s (s.poweredOn straps rstN) := by
  obtain ⟨_, hqueue, hrecords, _⟩ := invariantsHoldAtReset
  exact ⟨fun _ => hqueue, fun _ => hrecords⟩

end Sys2Proof.Machine
end

section
/-! Every command keeps the queue and the record table well formed (R40 to R42, R91, R92). -/

namespace Sys2Proof.Machine

/-! ### Power-on and reset -/

theorem execSystemReset_staysTidy (cause : ResetCause) (s : State) : OutcomeStaysTidy s (execSystemReset cause s) := by
  unfold execSystemReset
  cases cause with
  | rstnFalls => exact .guarded (.settle s.systemReset_staysTidy)
  | resetPart => exact .guarded (.settle s.systemReset_staysTidy)

theorem execRstNRises_staysTidy (s : State) : OutcomeStaysTidy s (execRstNRises s) := by
  unfold execRstNRises
  split
  · exact .same s
  · exact .next (.refl s)

theorem execResetCompletes_staysTidy (s : State) : OutcomeStaysTidy s (execResetCompletes s) :=
  .guarded (.settle (.refl s))

theorem execFillBegins_staysTidy (s : State) : OutcomeStaysTidy s (execFillBegins s) :=
  .guarded (.settle (.refl s))

/-! ### Commands of the upstream port -/

theorem execWriteInsertion_staysTidy (s : State) : OutcomeStaysTidy s (execWriteInsertion s) := by
  unfold execWriteInsertion
  split
  · split
    · rename_i hroom
      exact .settled (s.insertWrite_staysTidy _ _ _ hroom)
    · exact .same s
  · exact .same s

theorem execWriteCompletion_staysTidy (s : State) : OutcomeStaysTidy s (execWriteCompletion s) := by
  unfold execWriteCompletion
  split
  · exact .settled (.refl s)
  · exact .same s

theorem execReadBeatRetaken_staysTidy (s : State) : OutcomeStaysTidy s (execReadBeatRetaken s) := by
  unfold execReadBeatRetaken
  split
  · exact .guarded (.settle s.retakeBeat_staysTidy)
  · exact .same s

/-! ### The ends of the array operations -/

theorem execForegroundRead_staysTidy (u : Upset) (s : State) : OutcomeStaysTidy s (execForegroundRead u s) := by
  unfold execForegroundRead
  split
  · rename_i a loc location orphan _
    have reported := (s.opened loc u).foregroundReport_staysTidy (decode ((s.opened loc u).mem.read loc)) a location
      false orphan
    refine .settled (.trans reported ?_)
    split
    · exact .refl _
    · exact State.answerBeat_staysTidy _ _
  · exact .same s

theorem State.answerLocked_staysTidy (s : State) (d : Decoded) (a : Nat) : StaysTidy s (s.answerLocked d a) := by
  unfold State.answerLocked
  split <;> exact .refl s

theorem execLockedReadDecode_staysTidy (u : Upset) (s : State) : OutcomeStaysTidy s (execLockedReadDecode u s) := by
  unfold execLockedReadDecode
  split
  · rename_i a loc location orphan _
    have reported := (s.opened loc u).foregroundReport_staysTidy (decode ((s.opened loc u).mem.read loc)) a location
      true orphan
    refine .settled (.trans reported ?_)
    split
    · exact .refl _
    · exact State.answerLocked_staysTidy _ _ _
  · exact .same s

/-- The head leaves the queue after the report of its decode (R51, R53). -/
theorem execDrainEnd_staysTidy (u : Upset) (s : State) : OutcomeStaysTidy s (execDrainEnd u s) := by
  unfold execDrainEnd
  split
  · rename_i e rest _ hq
    refine .settled ⟨fun h => ?_, fun h => (State.mergeReport_staysTidy _ _ _ _).2 ?_⟩
    · rw [hq] at h
      exact queueOk_sublist (List.sublist_cons_self e rest) h
    · exact h
  · exact .same s

theorem execPrefetchRead_staysTidy (u : Upset) (s : State) : OutcomeStaysTidy s (execPrefetchRead u s) := by
  unfold execPrefetchRead
  split
  · rename_i entry a loc location orphan _
    have reported := (s.opened loc u).prefetchReport_staysTidy (decode ((s.opened loc u).mem.read loc)) a location
      orphan
    exact .settled (.trans reported (State.keepPrefetched_staysTidy _ _ _ _))
  · exact .same s

theorem execFillWrite_staysTidy (s : State) : OutcomeStaysTidy s (execFillWrite s) := by
  unfold execFillWrite
  split
  · exact .settled (.refl s)
  · exact .same s

theorem execInspectRead_staysTidy (u : Upset) (s : State) : OutcomeStaysTidy s (execInspectRead u s) := by
  unfold execInspectRead
  split
  · rename_i loc _ _
    exact .settled ((s.opened loc u).finish_staysTidy _ _)
  · exact .same s

theorem execScrubWord_staysTidy (u : Upset) (s : State) : OutcomeStaysTidy s (execScrubWord u s) := by
  unfold execScrubWord
  split
  · refine .settled (.trans ?_ (State.endScrubGrant_staysTidy _))
    split <;>
      · refine .trans ?_ (State.scrubReport_staysTidy _ _ _ _)
        exact .refl s
  · exact .same s

/-! ### Commands of the migration -/

theorem execMigrationStart_staysTidy (s : State) : OutcomeStaysTidy s (execMigrationStart s) := by
  unfold execMigrationStart
  split
  · split
    · exact .same s
    · split
      · exact .settled (s.startMigration_staysTidy _ _ _)
      · exact .settled (State.releaseLines_staysTidy _ s)
  · exact .same s

theorem execMigrationRead_staysTidy (u : Upset) (s : State) : OutcomeStaysTidy s (execMigrationRead u s) := by
  unfold execMigrationRead
  split
  · refine .settled ?_
    split <;>
      · refine .trans ?_ (State.directReport_staysTidy _ _ _ _ _ _ _)
        exact .refl s
  · exact .same s

theorem execMigrationWrite_staysTidy (s : State) : OutcomeStaysTidy s (execMigrationWrite s) := by
  unfold execMigrationWrite
  split
  · refine .settled ?_
    split <;> exact .refl s
  · exact .same s

theorem execMigrationVerify_staysTidy (u : Upset) (s : State) : OutcomeStaysTidy s (execMigrationVerify u s) := by
  unfold execMigrationVerify
  split
  · rename_i n loc w orphan _
    refine .settled ?_
    split
    · exact (s.opened loc u).endOrphanVerify_staysTidy n _
    · exact (s.opened loc u).endVerify_staysTidy n _
  · exact .same s

/-! ### The tick and the expiries -/

theorem execTick_staysTidy (s : State) : OutcomeStaysTidy s (execTick s) := by
  have expired : StaysTidy s s.takeExpiries := by
    unfold State.takeExpiries
    split <;> exact .refl s
  exact .settled expired

theorem execLockHoldExpiry_staysTidy (s : State) : OutcomeStaysTidy s (execLockHoldExpiry s) :=
  .guarded (.settle (.refl s))

theorem execScrubIntervalExpiry_staysTidy (s : State) : OutcomeStaysTidy s (execScrubIntervalExpiry s) :=
  .guarded (.settle (.refl s))

/-! ### Commands of the link -/

theorem execCharacterReceived_staysTidy (samples : BitVec 30) (s : State) :
    OutcomeStaysTidy s (execCharacterReceived samples s) := by
  unfold execCharacterReceived
  split
  · exact .next (.refl s)
  · exact .same s

theorem execBreakReceived_staysTidy (sent : Nat) (s : State) : OutcomeStaysTidy s (execBreakReceived sent s) := by
  unfold execBreakReceived
  split
  · exact .guarded (State.breakParser_staysTidy { s with link := s.link.broken } sent)
  · exact .same s

theorem execParserTakesItem_staysTidy (s : State) : OutcomeStaysTidy s (execParserTakesItem s) := by
  unfold execParserTakesItem
  split
  · exact .next (.refl s)
  · split
    · exact .same s
    · rename_i item rest _ _ _
      exact .next
        (State.resumeFrame_staysTidy { s with link := (s.link.taken rest).collected s.straps.station item })
  · exact .same s

theorem execFrameTimerExpiry_staysTidy (s : State) : OutcomeStaysTidy s (execFrameTimerExpiry s) :=
  .guarded (.refl s)

theorem execResponseSent_staysTidy (s : State) : OutcomeStaysTidy s (execResponseSent s) := by
  unfold execResponseSent
  split
  · exact .next (.refl s)
  · exact .same s

theorem execStartBitDetected_staysTidy (samples : BitVec 3) (s : State) :
    OutcomeStaysTidy s (execStartBitDetected samples s) :=
  .guarded (.refl s)

theorem execReceiverReturnsToIdle_staysTidy (s : State) : OutcomeStaysTidy s (execReceiverReturnsToIdle s) := by
  unfold execReceiverReturnsToIdle
  split
  · exact .next (.refl s)
  · exact .next (.refl s)
  · exact .same s

/-! ### Service commands -/

/-- A service command is carried out where the Command Unit has been handed it. -/
theorem OutcomeStaysTidy.served {s : State} {f : State → State} (c : SvcCommand) (h : StaysTidy s (f s)) :
    OutcomeStaysTidy s (s.serve c f) :=
  .guarded h

/-- A service command that is answered with a payload and does nothing else. -/
theorem OutcomeStaysTidy.answered (s : State) (c : SvcCommand) (payload : State → List Byte) :
    OutcomeStaysTidy s (s.serve c fun t => t.finish .ok (payload t)) :=
  .served c (s.finish_staysTidy .ok (payload s))

theorem execReleaseMode_staysTidy (s : State) : OutcomeStaysTidy s (execReleaseMode s) :=
  .served _ ((s.releaseMode.finish_staysTidy .ok []).settle)

theorem execClearFaults_staysTidy (mask : BitVec 16) (s : State) : OutcomeStaysTidy s (execClearFaults mask s) := by
  refine .served _ ?_
  split
  · exact s.finish_staysTidy _ _
  · exact (s.clearFaults mask).finish_staysTidy _ _

theorem execReadRecords_staysTidy (index count : Byte) (s : State) :
    OutcomeStaysTidy s (execReadRecords index count s) := by
  refine .served _ ?_
  split <;> exact s.finish_staysTidy _ _

theorem execCloseRecord_staysTidy (address : BitVec 24) (s : State) :
    OutcomeStaysTidy s (execCloseRecord address s) := by
  refine .served _ ?_
  split
  · exact s.finish_staysTidy _ _
  · split
    · exact s.finish_staysTidy _ _
    · have closed : StaysTidy s { s with records := withoutRecord address.toNat s.records } :=
        .of_records rfl (filtered_ok s.records _)
      exact closed.trans (State.finish_staysTidy _ _ _)

theorem execClearRecords_staysTidy (s : State) : OutcomeStaysTidy s (execClearRecords s) := by
  have cleared : StaysTidy s { s with records := s.records.filter ErrRecord.pinned } :=
    .of_records rfl (filtered_ok s.records _)
  exact .served _ (cleared.trans (State.finish_staysTidy _ _ _))

theorem execSpareLine_staysTidy (line : BitVec 24) (s : State) : OutcomeStaysTidy s (execSpareLine line s) := by
  refine .served _ ?_
  split
  · exact s.finish_staysTidy _ _
  · split
    · exact s.finish_staysTidy _ _
    · split
      · exact s.finish_staysTidy _ _
      · exact ((s.startMigration_staysTidy _ _ _).trans (State.finish_staysTidy _ _ _)).settle

theorem execScrubStart_staysTidy (mode : Byte) (s : State) : OutcomeStaysTidy s (execScrubStart mode s) := by
  refine .served _ ?_
  split
  · exact s.finish_staysTidy _ _
  · rename_i m _
    split
    · exact s.finish_staysTidy _ _
    · exact ((s.startScrub m).finish_staysTidy _ _).settle

theorem execScrubStop_staysTidy (s : State) : OutcomeStaysTidy s (execScrubStop s) := by
  refine .served _ ?_
  dsimp only
  split
  · exact .refl s
  · split
    · exact .refl s
    · exact (State.finish_staysTidy { s with scrub := s.scrub.stop } _ _).settle

theorem execGetSetting_staysTidy (item : Byte) (s : State) : OutcomeStaysTidy s (execGetSetting item s) := by
  refine .served _ ?_
  split <;> exact s.finish_staysTidy _ _

theorem execSetSetting_staysTidy (item : Byte) (value : Word) (s : State) :
    OutcomeStaysTidy s (execSetSetting item value s) := by
  unfold execSetSetting
  split
  · exact .same s
  · exact .served _ (State.finish_staysTidy { s with settings := (s.putSetting item value).2 } _ _)

theorem execSetReaction_staysTidy (source : FaultSource) (value : Word) (s : State) :
    OutcomeStaysTidy s (execSetReaction source value s) := by
  refine .served _ ?_
  split
  · exact s.finish_staysTidy _ _
  · exact ((s.react source _).finish_staysTidy _ _).settle

theorem execInspect_staysTidy (location : BitVec 24) (s : State) : OutcomeStaysTidy s (execInspect location s) := by
  refine .served _ ?_
  split
  · exact s.finish_staysTidy _ _
  · split
    · exact s.finish_staysTidy _ _
    · exact s.waitForGrant.settle_staysTidy

/-! ### Every command -/

/-- Every command keeps the queue and the table well formed. -/
theorem exec_staysTidy (c : Instr) (s : State) : OutcomeStaysTidy s (exec c s) := by
  cases c with
  | powerOn straps rstN => exact .settled (s.poweredOn_staysTidy straps rstN)
  | systemReset cause => exact execSystemReset_staysTidy cause s
  | rstNRises => exact execRstNRises_staysTidy s
  | resetCompletes => exact execResetCompletes_staysTidy s
  | fillBegins => exact execFillBegins_staysTidy s
  | readRequest | writeRequest | lockedReadRequest | lockedWriteRequest => exact .guarded (s.present_staysTidy _)
  | writeInsertion => exact execWriteInsertion_staysTidy s
  | writeCompletion => exact execWriteCompletion_staysTidy s
  | readBeatRetaken => exact execReadBeatRetaken_staysTidy s
  | foregroundRead u => exact execForegroundRead_staysTidy u s
  | lockedReadDecode u => exact execLockedReadDecode_staysTidy u s
  | drainEnd u => exact execDrainEnd_staysTidy u s
  | prefetchRead u => exact execPrefetchRead_staysTidy u s
  | fillWrite => exact execFillWrite_staysTidy s
  | migrationStart => exact execMigrationStart_staysTidy s
  | migrationRead u => exact execMigrationRead_staysTidy u s
  | migrationWrite => exact execMigrationWrite_staysTidy s
  | migrationVerify u => exact execMigrationVerify_staysTidy u s
  | scrubWord u => exact execScrubWord_staysTidy u s
  | tick => exact execTick_staysTidy s
  | lockHoldExpiry => exact execLockHoldExpiry_staysTidy s
  | scrubIntervalExpiry => exact execScrubIntervalExpiry_staysTidy s
  | characterReceived samples => exact execCharacterReceived_staysTidy samples s
  | breakReceived sent => exact execBreakReceived_staysTidy sent s
  | parserTakesItem => exact execParserTakesItem_staysTidy s
  | frameTimerExpiry => exact execFrameTimerExpiry_staysTidy s
  | responseSent => exact execResponseSent_staysTidy s
  | identify => exact .answered s .identify fun t => identifyBytes t.straps
  | readStatus => exact .answered s .readStatus State.statusBytes
  | readFaults => exact .answered s .readFaults State.faultBytes
  | readSpareMap => exact .answered s .readSpareMap fun t => spareMapBytes t.spareMap
  | resetPart => exact .answered s .resetPart fun _ => []
  | clearFaults mask => exact execClearFaults_staysTidy mask s
  | releaseMode => exact execReleaseMode_staysTidy s
  | readRecords index count => exact execReadRecords_staysTidy index count s
  | closeRecord address => exact execCloseRecord_staysTidy address s
  | clearRecords => exact execClearRecords_staysTidy s
  | spareLine line => exact execSpareLine_staysTidy line s
  | scrubStart mode => exact execScrubStart_staysTidy mode s
  | scrubStop => exact execScrubStop_staysTidy s
  | getSetting item => exact execGetSetting_staysTidy item s
  | setSetting item value => exact execSetSetting_staysTidy item value s
  | setReaction source value => exact execSetReaction_staysTidy source value s
  | inspect location => exact execInspect_staysTidy location s
  | inspectRead u => exact execInspectRead_staysTidy u s
  | startBitDetected samples => exact execStartBitDetected_staysTidy samples s
  | receiverReturnsToIdle => exact execReceiverReturnsToIdle_staysTidy s

/-- Every step does: on an empty queue of commands it idles, and otherwise it runs the command at the front. -/
theorem step_staysTidy (s : State) : OutcomeStaysTidy s (step s) := by
  unfold step
  split
  · exact .same s
  · rename_i c cs _
    exact exec_staysTidy c (s.withPending cs)

/-- Settles O54: each step keeps both, by the operations that its command is made of. -/
theorem queueAndTableStayWellFormed : Obligations.QueueAndTableStayWellFormed :=
  ⟨fun s t h hst => (step_staysTidy s t hst).1 h, fun s t h hst => (step_staysTidy s t hst).2 h⟩

end Sys2Proof.Machine
end

section
/-! Which requests stand, by class (R50, R65, R73, R80, R141). -/

namespace Sys2Proof.Machine

/-! ### What a request waits for -/

/-- A location is filled where no fill runs, or below its watermark (R62). -/
theorem State.unfilled_eq_false_iff (s : State) (loc : Nat) :
    s.unfilled loc = false ↔ s.fill.filling = false ∨ loc < s.fill.watermark := by
  simp [State.unfilled, Classical.or_iff_not_imp_left]

theorem holdsWord_eq_false_iff (q : List Entry) (a : Nat) : holdsWord q a = false ↔ ∀ e ∈ q, e.address ≠ a := by
  simp [holdsWord]

/-- A line is not COPYING where no slot is COPYING it (R113). -/
theorem State.copying_eq_false_iff (s : State) (line : Nat) :
    s.copying line = false ↔ ∀ n cursor o q, s.spareMap.get n ≠ .copying line cursor o q := by
  rw [State.copying, Option.isSome_eq_false_iff, Option.isNone_iff_eq_none]
  exact ⟨copyingSlot_none s.spareMap line, copyingSlot_of_none s.spareMap line⟩

/-- The three conditions of R80. -/
theorem State.lockedReady_iff (s : State) (a : Nat) :
    s.lockedReady a = true ↔ (∀ e ∈ s.queue, e.address ≠ a) ∧
      (∀ n cursor o q, s.spareMap.get n ≠ .copying (a / 8) cursor o q) ∧
      (s.fill.filling = false ∨ (s.translate a).1 < s.fill.watermark) := by
  rw [← holdsWord_eq_false_iff, ← s.copying_eq_false_iff, ← s.unfilled_eq_false_iff]
  simp [State.lockedReady, lineOf, and_assoc]

/-! ### The copy step -/

/-- A copy step is in progress from the grant of its READ to the end of its VERIFY (R50). -/
theorem State.copyStepInProgress_iff (s : State) :
    s.copyStepInProgress = true ↔ ∃ m, s.migration = some m ∧
      (m.stepDue ≠ .read ∨ ∃ a loc k, s.grant = some ⟨.migrationRead a loc k, false⟩) := by
  unfold State.copyStepInProgress
  cases hm : s.migration with
  | none => simp
  | some m =>
    simp only [Option.some.injEq, exists_eq_left', Bool.or_eq_true, decide_eq_true_iff]
    refine or_congr_right ?_
    split
    · rename_i a loc k orphan hg
      cases orphan <;> simp [hg]
    · rename_i hg
      refine ⟨fun h => (Bool.false_ne_true h).elim, ?_⟩
      rintro ⟨a, loc, k, h⟩
      exact (hg a loc k false h).elim

/-- The word of the copy cursor (R115). -/
theorem State.copyWord_iff (s : State) (a : Nat) :
    s.copyWord = some a ↔ ∃ m line cursor o q, s.migration = some m ∧
      s.spareMap.get m.slot = .copying line cursor o q ∧ a = 8 * line + cursor := by
  unfold State.copyWord
  cases hm : s.migration with
  | none => simp
  | some m =>
    cases hc : s.spareMap.get m.slot <;> simp [hc, eq_comm]

/-! ### The word of the prefetch -/

/-- The entry that is served is FILLING, and of two FILLING ones it is that which started earlier (R73). -/
theorem ReadAhead.served_iff (ra : ReadAhead) (i : Fin 2) :
    ra.served = some i ↔ (∃ line early slots, ra.get i = .filling line early slots) ∧
      ∀ j l e x, j ≠ i → ra.get j = .filling l e x → (i = 0 ↔ ra.e0.startedEarlier = true) := by
  obtain ⟨e0, e1⟩ := ra
  rcases (by omega : i = 0 ∨ i = 1) with rfl | rfl
  · cases e0 with
    | filling line early slots =>
      cases e1 with
      | filling l earlier x => cases earlier <;> simp [ReadAhead.served, ReadAhead.get, RaEntry.startedEarlier]
      | empty | valid => simp [ReadAhead.served, ReadAhead.get]
    | empty | valid => cases e1 <;> simp [ReadAhead.served, ReadAhead.get]
  · cases e0 with
    | filling line early slots =>
      cases e1 <;> simp [ReadAhead.served, ReadAhead.get, RaEntry.startedEarlier]
    | empty | valid => cases e1 <;> simp [ReadAhead.served, ReadAhead.get]

/-- The prefetch reads the next word of the served line (R73). -/
theorem State.prefetchWord_iff (s : State) (i : Fin 2) (a : Nat) :
    s.prefetchWord = some (i, a) ↔ ∃ line early slots, s.readAhead.get i = .filling line early slots ∧
      a = 8 * line + slots.length ∧ ∀ j l e x, j ≠ i → s.readAhead.get j = .filling l e x →
        (i = 0 ↔ s.readAhead.e0.startedEarlier = true) := by
  constructor
  · intro h
    unfold State.prefetchWord at h
    split at h
    · cases h
    · rename_i k hk
      split at h
      · rename_i line early slots he
        cases h
        exact ⟨line, early, slots, he, rfl, ((s.readAhead.served_iff i).mp hk).2⟩
      · cases h
  · rintro ⟨line, early, slots, he, rfl, first⟩
    have hs := (s.readAhead.served_iff i).mpr ⟨⟨line, early, slots, he⟩, first⟩
    simp only [State.prefetchWord, hs, he]

/-! ### The classes -/

/-- A read beat that waits for the array is asked for (R65). -/
theorem State.foregroundWord_onArray (s : State) (req : Request) (marks : Option (List Bool)) (i : Nat)
    (h : s.txn = some ⟨req, marks, .read i .onArray⟩) : s.foregroundWord = some (req.address.toNat + i) := by
  simp only [State.foregroundWord, h, Request.beatAddress]

/-- A locked read is asked for once the conditions of R80 hold. -/
theorem State.foregroundWord_onLock (s : State) (req : Request) (marks : Option (List Bool)) (i : Nat)
    (h : s.txn = some ⟨req, marks, .read i .onLock⟩) :
    s.foregroundWord.isSome = true ↔ s.lockedReady (req.address.toNat + i) = true := by
  rw [State.foregroundWord, h]
  exact Option.isSome_ite

/-- No other transaction asks for the array (R65). -/
theorem State.foregroundWord_none (s : State) (h : ∀ req marks i, s.txn ≠ some ⟨req, marks, .read i .onArray⟩ ∧
    s.txn ≠ some ⟨req, marks, .read i .onLock⟩) : s.foregroundWord = none := by
  rw [Option.eq_none_iff_forall_ne_some]
  intro a ha
  obtain ⟨req, marks, i, ⟨ht, _⟩ | ⟨ht, _⟩⟩ := s.foregroundWord_some a ha
  · exact (h req marks i).1 ht
  · exact (h req marks i).2 ht

/-- The head may ask for its drain where its location is filled and it is not the word of a copy step (R50, R62). -/
theorem State.headEligible_iff (s : State) (e : Entry) :
    s.headEligible e = true ↔ (s.fill.filling = false ∨ (s.translate e.address).1 < s.fill.watermark) ∧
      ¬ (s.copyStepInProgress = true ∧ s.copyWord = some e.address) := by
  rw [← s.unfilled_eq_false_iff]
  simp only [State.headEligible, Bool.and_eq_true, Bool.not_eq_true', ← Bool.not_eq_true (_ && _), decide_eq_true_iff]

theorem State.stands_drain_cons (s : State) (e : Entry) (rest : List Entry) (h : s.queue = e :: rest) :
    s.stands .drain = true ↔ e.stage = .waiting ∧ s.headEligible e = true := by
  simp [State.stands, h]

/-- An INSPECT stands while it waits for its grant (R65, R180). -/
theorem State.stands_service_iff (s : State) :
    s.stands .service = true ↔ ∃ loc b w, s.executing = some ⟨.inspect loc, b, w, true⟩ := by
  show s.inspected.isSome = true ↔ _
  unfold State.inspected
  split
  · rename_i loc b w he
    exact ⟨fun _ => ⟨loc, b, w, he⟩, fun _ => rfl⟩
  · rename_i he
    refine ⟨fun h => (Bool.false_ne_true h).elim, ?_⟩
    rintro ⟨loc, b, w, h⟩
    exact (he loc b w h).elim

theorem State.stands_migration_iff (s : State) : s.stands .migration = true ↔ s.migration ≠ none :=
  Option.isSome_iff_ne_none

/-- The prefetch stands where its word is filled (R62, R65). -/
theorem State.stands_prefetch_iff (s : State) :
    s.stands .prefetch = true ↔ ∃ i a, s.prefetchWord = some (i, a) ∧
      (s.fill.filling = false ∨ (s.translate a).1 < s.fill.watermark) := by
  simp only [← s.unfilled_eq_false_iff]
  cases hp : s.prefetchWord with
  | none => simp [State.stands, hp]
  | some p => simp [State.stands, hp, Prod.ext_iff]

/-- The scrub stands while it is SWEEPING (R141). -/
theorem State.stands_scrub_iff (s : State) :
    s.stands .scrub = true ↔ ∃ mode left, s.scrub.run = .running mode (.sweeping left) := by
  show s.scrub.sweeping = true ↔ _
  unfold Scrub.sweeping
  split
  · rename_i mode left hr
    exact ⟨fun _ => ⟨mode, left, hr⟩, fun _ => rfl⟩
  · rename_i hr
    refine ⟨fun h => (Bool.false_ne_true h).elim, ?_⟩
    rintro ⟨mode, left, h⟩
    exact (hr mode left h).elim

/-- Settles O23: class by class, and the copy step and the prefetch word that two of them look at. -/
theorem requestsStand : Obligations.RequestsStand := by
  intro s
  refine ⟨fun req marks i ht => ?_, fun req marks i ht => ?_, fun h => ?_, s.copyStepInProgress_iff, s.copyWord_iff,
    s.prefetchWord_iff, fun e rest hq => ?_, fun hq => ?_, s.stands_service_iff, Iff.rfl, s.stands_migration_iff,
    s.stands_prefetch_iff, s.stands_scrub_iff⟩
  · have hw := s.foregroundWord_onArray req marks i ht
    exact ⟨Option.isSome_of_mem hw, hw⟩
  · exact (s.foregroundWord_onLock req marks i ht).trans (s.lockedReady_iff _)
  · rw [State.stands, s.foregroundWord_none h]
    rfl
  · rw [s.stands_drain_cons e rest hq, s.headEligible_iff]
  · rw [State.stands, hq]

end Sys2Proof.Machine
end

section
/-! What the invariant of the engines looks at: the operation in progress, the fill and the run of the scrub (R133 to
R136, R139, R146), and what a grant gives (R65, R67). -/

namespace Sys2Proof.Machine

/-! ### The operations in progress -/

/-- A SCRUB grant of the present run is a SCRUB grant. -/
theorem State.scrubInProgress_of_granted (s : State) (h : s.scrubGranted = true) : s.scrubInProgress = true := by
  unfold State.scrubGranted at h
  split at h
  · rename_i hg
    simp only [State.scrubInProgress, hg]
  · exact (Bool.false_ne_true h).elim

/-- While another operation is in progress no SCRUB grant is. -/
theorem State.scrubInProgress_other (s : State) {g : Grant} (hg : s.grant = some g)
    (other : ∀ a loc k, g.op ≠ .scrub a loc k) : s.scrubInProgress = false := by
  unfold State.scrubInProgress
  split
  · rename_i hs
    obtain rfl := Option.some.inj (hg.symm.trans hs)
    exact (other _ _ _ rfl).elim
  · rfl

/-- Whether any SCRUB grant is in progress does not depend on the entry of a PREFETCH grant. -/
theorem State.scrubInProgress_detached (s t : State) (p : Fin 2 → Bool) (h : t.grant = detached p s.grant) :
    t.scrubInProgress = s.scrubInProgress := by
  rcases detached_cases p s.grant with hd | ⟨i, x, loc, k, o, hg, hd⟩
  · simp only [State.scrubInProgress, h.trans hd]
  · simp only [State.scrubInProgress, h.trans hd, hg]

/-- A grant that loses its entry is a PREFETCH grant, so no FILL grant (R75). -/
theorem fillGrant_detached (p : Fin 2 → Bool) (g : Option Grant) : fillGrant (detached p g) = fillGrant g := by
  rcases detached_cases p g with hd | ⟨i, x, loc, k, o, rfl, hd⟩ <;> rw [hd]
  rfl

/-- An operation that a system reset leaves to finish is the operation it was (R8). -/
theorem State.orphaned_views (s : State) :
    fillGrant (orphaned s.grant) = fillGrant s.grant ∧
    ({ s with grant := orphaned s.grant } : State).scrubInProgress = s.scrubInProgress := by
  cases hg : s.grant with
  | none => exact ⟨rfl, by simp [State.scrubInProgress, hg, orphaned, detached]⟩
  | some g =>
    obtain ⟨op, o⟩ := g
    cases op with
    | prefetch e a loc k => cases e <;> exact ⟨rfl, by simp [State.scrubInProgress, hg, orphaned, detached]⟩
    | foreground | drain | service | fill | migrationRead | migrationWrite | migrationVerify | scrub =>
      exact ⟨rfl, by simp [State.scrubInProgress, hg, orphaned, detached]⟩

/-- A withdrawn command waits as it did (R172). -/
theorem State.withdraw_stopWaits (s : State) : s.withdraw.stopWaits = s.stopWaits := by
  cases hx : s.executing <;> simp [State.withdraw, State.stopWaits, hx]

/-! ### The fill -/

theorem populated_pos (c : Straps) : 0 < c.populated := Nat.two_pow_pos _

/-- A fill that begins has its watermark at 0 and no FILL grant yet (R134). -/
theorem fillOk_begun (t : State) (hf : t.fill.filling = true) (hw : t.fill.watermark = 0)
    (hm : t.mem.filled ≤ t.straps.populated) (hg : fillGrant t.grant = none) : FillOk t := by
  refine ⟨fun _ => hw ▸ populated_pos _, fun hn => ?_, hw ▸ Nat.zero_le _, hm, fun loc hl => ?_⟩
  · exact (Bool.false_ne_true (hn.symm.trans hf)).elim
  · rw [hg] at hl
    cases hl

/-- A fill that goes on as it was. -/
theorem fillOk_kept {s t : State} (h : FillOk s) (hf : t.fill.filling = s.fill.filling)
    (hw : t.fill.watermark = s.fill.watermark) (hp : t.straps = s.straps) (hm : t.mem = s.mem)
    (hg : fillGrant t.grant = fillGrant s.grant) : FillOk t := by
  unfold FillOk
  rw [hf, hw, hp, hm, hg]
  exact h

/-- A filled location moves the first one with power-on contents past itself at most. -/
theorem Memory.filled_fillAt_le (m : Memory) (loc : Nat) : (m.fillAt loc).filled ≤ max m.filled (loc + 1) := by
  unfold Memory.fillAt
  split
  · exact Nat.le_max_right _ _
  · exact Nat.le_max_left _ _

/-- A system reset begins the fill, or leaves it where it was (R134). -/
theorem State.resetFill_cases (s : State) : s.grant = none ∧ s.resetFill = ⟨true, 0, false⟩ ∨
    s.resetFill.filling = s.fill.filling ∧ s.resetFill.watermark = s.fill.watermark := by
  cases hr : s.fillToRun with
  | false => exact .inr (by simp [s.resetFill_kept hr])
  | true =>
    by_cases hg : s.grant = none
    · exact .inl ⟨hg, s.resetFill_free hr hg⟩
    · exact .inr (by simp [s.resetFill_busy hr hg])

/-! ### Pauses and the run of the scrub -/

/-- A pause does not stop a run, and what it leaves does not run. -/
theorem Scrub.pause_run (sc : Scrub) : (sc.pause.run ≠ .stopped → sc.run ≠ .stopped) ∧
    ∀ mode phase, sc.pause.run ≠ .running mode phase := by
  unfold Scrub.pause
  cases hr : sc.run <;> simp [hr]

/-- Only a run is resumed (R146). -/
theorem Scrub.resume_run (sc : Scrub) (h : sc.resume.run ≠ .stopped) : sc.run ≠ .stopped := by
  unfold Scrub.resume at h
  cases hr : sc.run <;> simp_all

/-- The cursors of a scrub that does not run stay where they are (R142). -/
theorem Scrub.advance_idle (sc : Scrub) (st : Settings) (lines : Nat)
    (h : ∀ mode phase, sc.run ≠ .running mode phase) : sc.advance st lines = sc := by
  unfold Scrub.advance
  split
  · rename_i mode left hr
    exact (h mode _ hr).elim
  · rfl

/-- A skip moves on a SWEEPING scrub alone (R141). -/
theorem State.skipWord_idle (s : State) (h : ∀ mode phase, s.scrub.run ≠ .running mode phase) :
    s.skipWord.scrub.run = s.scrub.run := by
  show (Scrub.advance _ _ _).run = _
  rw [Scrub.advance_idle _ _ _ (by exact h)]

/-- An interval's expiry and a tick leave a scrub that does not run (R144, R146). -/
theorem Scrub.expired_idle (sc : Scrub) (block : Nat) (h : ∀ mode phase, sc.run ≠ .running mode phase) :
    sc.expired block = sc := by
  unfold Scrub.expired
  split
  · rename_i mode n hr
    exact (h mode _ hr).elim
  · rfl

theorem Scrub.ticked_idle (sc : Scrub) (h : ∀ mode phase, sc.run ≠ .running mode phase) : sc.ticked = sc := by
  unfold Scrub.ticked
  split
  · rename_i mode n due hr
    exact (h mode _ hr).elim
  · rfl

/-! ### Grants -/

/-- A count after a grant is in its range (R67). -/
theorem countAfter_le (c k : ReqClass) (stands : Bool) (n : Nat) (h : n ≤ 32) : countAfter c k stands n ≤ 32 := by
  unfold countAfter
  split
  · exact Nat.zero_le _
  · split
    · exact Nat.min_le_right _ _
    · exact h

theorem State.countsAfter_ok (s : State) (c : ReqClass) (h : CountsOk s.passOver) : CountsOk (s.countsAfter c) := by
  obtain ⟨fill, migration, scrub⟩ := h
  exact ⟨countAfter_le _ _ _ _ fill, countAfter_le _ _ _ _ migration, countAfter_le _ _ _ _ scrub⟩

/-- A copy step writes and reads words of its own, and fills none (R119 to R121). -/
theorem State.migrationOp_ne_fill (s : State) (loc : Nat) : s.migrationOp ≠ some (.fill loc) := by
  unfold State.migrationOp
  split
  · exact nofun
  · split
    · split <;> exact nofun
    · exact nofun

/-- A FILL grant is given to the fill alone, for the watermark (R65, R135). -/
theorem State.grantOp_fill (s : State) (c : ReqClass) (loc : Nat) (h : s.grantOp c = some (.fill loc)) :
    c = .fill ∧ loc = s.fill.watermark := by
  cases c with
  | fill => exact ⟨rfl, (GrantOp.fill.inj (Option.some.inj h)).symm⟩
  | migration => exact (s.migrationOp_ne_fill loc h).elim
  | scrub => cases h
  | foreground | drain | service | prefetch =>
    obtain ⟨_, _, hop⟩ := Option.map_eq_some_iff.mp h
    cases hop

/-- A FILL grant in progress fills its location. -/
theorem fillGrant_eq_some (op : Option GrantOp) (loc : Nat)
    (h : fillGrant (op.map fun op => ⟨op, false⟩) = some loc) : op = some (.fill loc) := by
  unfold fillGrant at h
  split at h
  · rename_i l o hg
    obtain ⟨op, rfl, ho⟩ := Option.map_eq_some_iff.mp hg
    cases ho
    rw [Option.some.inj h]
  · cases h

end Sys2Proof.Machine
end

section
/-! What the fill, a system reset and HALTED hold off stays held off (R67, R116, R133 to R136, R139, R146, R179): the
shared operations. -/

namespace Sys2Proof.Machine

/-! ### The invariant -/

/-- The engines are held off as `EnginesOk` says, the watermark is in its place and the pass-over counts are in their
range. -/
def HeldOff (s : State) : Prop := EnginesOk s ∧ FillOk s ∧ CountsOk s.passOver

/-- Whatever state the outcome of a command leaves meets the invariant. -/
def HeldAfter (o : Host.Outcome State Fault Refusal) : Prop := ∀ t, o = .next t → HeldOff t

theorem HeldAfter.next {t : State} (h : HeldOff t) : HeldAfter (.next t) := by
  rintro _ ⟨⟩
  exact h

/-- A command that acts under a condition alone. -/
theorem HeldAfter.guarded {s t : State} {p : Prop} [Decidable p] (h : HeldOff s) (acts : p → HeldOff t) :
    HeldAfter (if p then .next t else .next s) := by
  split
  · exact .next (acts ‹p›)
  · exact .next h

namespace HeldOff

/-- A pause gives the HALTED clause, so all the others are enough (R146). -/
theorem of_paused (t : State) (run : t.scrub.run ≠ .stopped → t.fill.filling = false ∧ t.resetInProgress = false)
    (copy : t.migration.isSome = true → t.fill.filling = false ∧ t.resetInProgress = false)
    (due : t.fill.due = true → t.resetInProgress = true)
    (stop : t.stopWaits = true → t.scrubInProgress = true) (fill : FillOk t) (counts : CountsOk t.passOver) :
    HeldOff t.pauseIfHalted := by
  refine ⟨⟨fun hr => run ?_, copy, due, fun hm => ?_, stop⟩, fill, counts⟩
  · simp only [State.pauseIfHalted] at hr
    split at hr
    · exact t.scrub.pause_run.1 hr
    · exact hr
  · simp only [State.pauseIfHalted]
    cases hg : t.scrubGranted with
    | true => exact .inl hg
    | false =>
      rw [if_pos ⟨hm, rfl⟩]
      exact .inr t.scrub.pause_run.2

variable {s : State} (h : HeldOff s)
include h

/-- Whatever becomes of the Fault Unit, with the pause that HALTED brings (R146, R152, R154). -/
theorem faulted (f : FaultUnit) : HeldOff ({ s with faults := f } : State).pauseIfHalted := by
  obtain ⟨⟨run, copy, due, _, stop⟩, fill, counts⟩ := h
  exact of_paused { s with faults := f } run copy due stop fill counts

theorem occur (src : FaultSource) : HeldOff (s.occur src) := h.faulted _

theorem occurOpt (src : Option FaultSource) : HeldOff (s.occurOpt src) := by
  cases src with
  | none => exact h
  | some src => exact h.occur src

/-- The array's contents matter only as far as the fill has come (R133). -/
theorem array (m : Memory) (hm : m.filled = s.mem.filled) : HeldOff { s with mem := m } := by
  obtain ⟨engines, ⟨below, done, written, populated, grant⟩, counts⟩ := h
  refine ⟨engines, ⟨below, done, ?_, ?_, grant⟩, counts⟩
  · exact hm ▸ written
  · exact hm ▸ populated

/-- An operation that is no SCRUB grant's ends (R146). -/
theorem freed (hg : s.scrubInProgress = false) : HeldOff { s with grant := none } := by
  obtain ⟨⟨run, copy, due, halted, stop⟩, ⟨below, done, written, populated, _⟩, counts⟩ := h
  refine ⟨⟨run, copy, due, fun hm => ?_, fun hs => ?_⟩, ⟨below, done, written, populated, ?_⟩, counts⟩
  · refine .inr ((halted hm).resolve_left fun hs => ?_)
    exact Bool.false_ne_true (hg.symm.trans (s.scrubInProgress_of_granted hs))
  · exact (Bool.false_ne_true (hg.symm.trans (stop hs))).elim
  · intro loc hl
    cases hl

theorem opened (loc : Nat) (u : Upset) (hg : s.scrubInProgress = false) : HeldOff (s.opened loc u) :=
  (h.freed hg).array _ (by simp)

/-- A PREFETCH grant loses its entry (R75). -/
theorem detached (p : Fin 2 → Bool) : HeldOff { s with grant := Machine.detached p s.grant } := by
  obtain ⟨⟨run, copy, due, halted, stop⟩, ⟨below, done, written, populated, grant⟩, counts⟩ := h
  refine ⟨⟨run, copy, due, ?_, ?_⟩, ⟨below, done, written, populated, ?_⟩, counts⟩
  · rw [State.scrubGranted_detached s _ p rfl]
    exact halted
  · rw [State.scrubInProgress_detached s _ p rfl]
    exact stop
  · rw [fillGrant_detached]
    exact grant

/-- An engine that ends its copy, or goes on with it (R116). -/
theorem migrated (m : Option Migration) (hm : m.isSome = true → s.migration.isSome = true) :
    HeldOff { s with migration := m } := by
  obtain ⟨⟨run, copy, due, halted, stop⟩, rest⟩ := h
  exact ⟨⟨run, fun hc => copy (hm hc), due, halted, stop⟩, rest⟩

/-- The link and the command in execution, where no SCRUB_STOP begins to wait (R179). -/
theorem served (l : Link) (e : Option Execution) (hs : ({ s with link := l, executing := e } : State).stopWaits = true →
    s.stopWaits = true) : HeldOff { s with link := l, executing := e } := by
  obtain ⟨⟨run, copy, due, halted, stop⟩, rest⟩ := h
  exact ⟨⟨run, copy, due, halted, fun hw => stop (hs hw)⟩, rest⟩

/-- A scrub that runs only where it ran before, and has been a run before (R139, R146). -/
theorem scrubbed (sc : Scrub) (hr : sc.run ≠ .stopped → s.scrub.run ≠ .stopped)
    (hm : (∀ mode phase, s.scrub.run ≠ .running mode phase) → ∀ mode phase, sc.run ≠ .running mode phase) :
    HeldOff { s with scrub := sc } := by
  obtain ⟨⟨run, copy, due, halted, stop⟩, rest⟩ := h
  exact ⟨⟨fun hs => run (hr hs), copy, due, fun hh => (halted hh).imp_right hm, stop⟩, rest⟩

/-- A scrub that is moved on only where it runs. -/
theorem rescrubbed (sc : Scrub) (idle : (∀ mode phase, s.scrub.run ≠ .running mode phase) → sc.run = s.scrub.run) :
    HeldOff { s with scrub := sc } := by
  refine h.scrubbed sc (fun hr hs => hr ?_) fun hi => ?_
  · rw [idle fun mode phase => by simp [hs], hs]
  · rw [idle hi]
    exact hi

/-- Pass-over counts in their range (R67). -/
theorem counted (p : PassOver) (hp : CountsOk p) : HeldOff { s with passOver := p } := by
  have ⟨engines, fill, _⟩ := h
  exact ⟨engines, fill, hp⟩

/-! ### Offers, arrivals and reports -/

theorem offer (kind : EntryKind) (a : Nat) (d : Word) : HeldOff (s.offer kind a d) := by
  unfold State.offer
  split <;> exact h

theorem examine (a : Nat) : HeldOff (s.examine a) := by
  unfold State.examine
  split
  · exact h
  · split
    · split
      · exact h
      · exact h.occur _
    · exact h

theorem arrive (a : Arrival) : HeldOff (s.arrive a) := by
  unfold State.arrive
  split
  · exact h.occur _
  · rename_i rs _
    have placed : HeldOff { s with records := rs } := h
    exact placed.examine a.address

theorem deliveryReport (a : Nat) (kind : Detected) (y : Option Syndrome) (loc : Location) (answer : Repair) :
    HeldOff (s.deliveryReport a kind y loc answer) := by
  unfold State.deliveryReport
  split
  · exact h
  · exact h.arrive _

theorem deliverBad (a : Nat) (kind : Detected) (y : Option Syndrome) (loc : Location) :
    HeldOff (s.deliverBad a kind y loc) :=
  ((h.occur _).offer _ _ _).deliveryReport _ _ _ _ _

theorem foregroundReport (d : Decoded) (a : Nat) (loc : Location) (locked orphan : Bool) :
    HeldOff (s.foregroundReport d a loc locked orphan) := by
  unfold State.foregroundReport
  split
  · exact h
  · refine .occur (.arrive ?_ _) _
    split
    · exact h.offer _ _ _
    · exact h

theorem prefetchReport (d : Decoded) (a : Nat) (loc : Location) (orphan : Bool) :
    HeldOff (s.prefetchReport d a loc orphan) := by
  unfold State.prefetchReport
  split
  · exact h
  · refine .occur (.arrive ?_ _) _
    split
    · exact h
    · exact h.offer _ _ _
  · exact h.arrive _

theorem directReport (d : Decoded) (a : Nat) (loc : Location) (source : Source) (repair : Detected → Repair)
    (fault : Detected → FaultSource) : HeldOff (s.directReport d a loc source repair fault) := by
  unfold State.directReport
  split
  · exact h
  · exact (h.arrive _).occur _

theorem mergeReport (d : Option Decoded) (a : Nat) (loc : Location) : HeldOff (s.mergeReport d a loc) := by
  cases d with
  | none => exact h
  | some d => exact h.directReport d a loc _ _ _

theorem scrubReport (d : Decoded) (a : Nat) (loc : Location) : HeldOff (s.scrubReport d a loc) := by
  unfold State.scrubReport
  split
  · exact h.arrive _
  all_goals exact h.directReport _ _ _ _ _ _

/-! ### The upstream port -/

theorem touchLine (a : Nat) : HeldOff (s.touchLine a) := by
  obtain ⟨ra, g, he, rfl | rfl⟩ := s.touchLine_eq a <;> rw [he]
  · exact h
  · exact h.detached _

theorem touched (fresh : Bool) (req : Request) (i : Nat) : HeldOff (s.touched fresh req i) := by
  unfold State.touched
  split
  · exact h.touchLine _
  · exact h

theorem takeBeat (a : Nat) : HeldOff (s.takeBeat a).2 := by
  unfold State.takeBeat
  split
  · split
    · exact h.occur _
    · split <;> exact h
  · split
    · split
      · exact h
      · exact h.deliverBad _ _ _ _
      · exact h
    all_goals exact h

omit h in
theorem serveBeats (req : Request) (marks : Option (List Bool)) (n : Nat) : ∀ {s : State}, HeldOff s →
    ∀ fresh, HeldOff (State.serveBeats req marks n fresh s) := by
  induction n with
  | zero => exact fun h _ => h
  | succ n ih =>
    intro s h fresh
    rw [State.serveBeats]
    dsimp only
    split
    · have taken := (h.touched fresh req (req.count - (n + 1))).takeBeat (req.beatAddress (req.count - (n + 1)))
      unfold State.touched at taken
      split
      all_goals
        rename_i u hu
        rw [hu] at taken
      · exact ih (s := u.respond _) taken true
      · exact taken
      · exact taken
    · exact ih (s := s.respond _) h true

theorem retakeBeat : HeldOff s.retakeBeat := by
  unfold State.retakeBeat
  split
  · exact h.serveBeats _ _ _ _
  · exact h

theorem answerBeat (d : Decoded) : HeldOff (s.answerBeat d) := by
  have answered (r : UpResponse) : HeldOff (s.respond r) := h
  unfold State.answerBeat
  split
  · split
    · exact (answered _).serveBeats _ _ _ _
    · exact (answered _).serveBeats _ _ _ _
    all_goals exact h
  · exact h

theorem answerLocked (d : Decoded) (a : Nat) : HeldOff (s.answerLocked d a) := by
  unfold State.answerLocked
  split <;> exact h

theorem insertBeat (locked through : Bool) (a : Nat) (b : Beat) : HeldOff (s.insertBeat locked through a b) := by
  refine occurOpt ?_ _
  exact h.detached fun i => (s.readAhead.get i).holds (lineOf a)

omit h in
theorem insertBeats (locked through : Bool) (beats : List (Nat × Beat)) : ∀ {s : State}, HeldOff s →
    HeldOff (s.insertBeats locked through beats).state := by
  induction beats with
  | nil => exact id
  | cons x rest ih => exact fun h => ih (h.insertBeat locked through x.1 x.2)

theorem insertWrite (req : Request) (marks : Option (List Bool)) (posting : PostingMode) :
    HeldOff (s.insertWrite req marks posting) := by
  unfold State.insertWrite
  cases posting <;> exact insertBeats _ _ _ h

theorem takeWrite (req : Request) : HeldOff (s.takeWrite req) := by
  unfold State.takeWrite
  extract_lets t need
  have ht : HeldOff t := h
  split
  · exact h
  · split
    · exact ht.insertWrite _ _ _
    · exact h

theorem take (req : Request) : HeldOff (s.take req) := by
  unfold State.take
  split
  · exact h.serveBeats _ _ _ _
  · unfold State.takeLockedRead
    split <;> exact h
  · exact h.takeWrite req

theorem check (req : Request) : HeldOff (s.check req) := by
  unfold State.check
  split
  · rename_i f e _
    exact occurOpt (s := { s with lock := if e then none else s.lock }.respond (refusal req.op)) h f
  · exact h.take req

/-! ### The end of an event -/

/-- A grant to a class that stands, given where the array is free (R64, R67). -/
theorem give (c : ReqClass) (hf : s.arrayFree = true) (hc : s.stands c = true) : HeldOff (s.give c) := by
  obtain ⟨⟨run, copy, due, halted, stop⟩, ⟨below, done, written, populated, _⟩, counts⟩ := h
  obtain ⟨hg, _⟩ : s.grant = none ∧ s.fill.due = false := by simpa [State.arrayFree] using hf
  have not_granted : s.scrubGranted = false := by simp [State.scrubGranted, hg]
  have not_in_progress : s.scrubInProgress = false := by simp [State.scrubInProgress, hg]
  refine ⟨⟨run, copy, due, fun hm => .inr ?_, fun hs => ?_⟩, ⟨below, done, written, populated, fun loc hl => ?_⟩,
    s.countsAfter_ok c counts⟩
  · exact (halted hm).resolve_left (by simp [not_granted])
  · exact (Bool.false_ne_true (not_in_progress.symm.trans (stop hs))).elim
  · obtain ⟨rfl, hw⟩ := s.grantOp_fill c loc (fillGrant_eq_some _ loc hl)
    exact ⟨hc, hw⟩

/-- The skip of a word (R67, R141). -/
theorem skipWord : HeldOff s.skipWord := by
  have ⟨_, _, counts⟩ := h
  have skipped := h.rescrubbed s.skipWord.scrub s.skipWord_idle
  exact skipped.counted _ (s.countsAfter_ok .scrub counts)

theorem arbitrate : HeldOff s.arbitrate :=
  State.arbitrate_induction (fun s t => HeldOff s → HeldOff t) s (fun _ => id)
    (fun s c hf hc hs => hs.give c hf (s.winner_stands c hc)) (fun _ _ _ _ _ next hs => next hs.skipWord) h

theorem zeroFill (n : Nat) : HeldOff (s.zeroFill n) := by
  obtain ⟨ra, he⟩ := State.zeroFill_eq n s
  rw [he]
  exact h

theorem settle : HeldOff s.settle := (h.zeroFill 16).arbitrate

theorem settled : HeldAfter (.next s.settle) := .next h.settle

theorem present (req : Request) : HeldOff (s.present req) := by
  have offered : HeldOff { s with held := none } := h
  unfold State.present
  split
  · split
    · exact (offered.check req).settle
    · exact h
  · exact h

theorem serveWaitingLine (line : Nat) : HeldOff (s.serveWaitingLine line) := by
  unfold State.serveWaitingLine
  split
  · split
    · exact h.retakeBeat
    · exact h
  · exact h

theorem keepPrefetched (entry : Option (Fin 2)) (line : Nat) (slot : RaSlot) :
    HeldOff (s.keepPrefetched entry line slot) := by
  have kept (i : Fin 2) : HeldOff (s.fillSlot i slot) := h
  cases entry with
  | none => exact h
  | some i => exact ((kept i).zeroFill 16).serveWaitingLine line

/-! ### The migration -/

theorem startMigration (line : Nat) (origin : Origin) (n : Fin 8) (hf : s.fill.filling = false)
    (hr : s.resetInProgress = false) : HeldOff (s.startMigration line origin n) := by
  obtain ⟨⟨run, copy, rest⟩, ok⟩ := h
  exact ⟨⟨run, fun _ => ⟨hf, hr⟩, rest⟩, ok⟩

/-- The next grant of a copy step is due (R119 to R121). -/
theorem stepped (f : Migration → Migration) : HeldOff { s with migration := s.migration.map f } :=
  h.migrated _ (by simp)

theorem releaseLines (n : Nat) : HeldOff (State.releaseLines n s) := by
  induction n generalizing s with
  | zero => exact h
  | succ n ih =>
    unfold State.releaseLines
    split
    · exact h
    · rename_i line _
      have reopened : HeldOff { s with records := reopenRecords line s.records } := h
      exact ih (reopened.occur _)

theorem verified (n : Fin 8) (line cursor : Nat) (origin : Origin) (previous : Option (Fin 8)) :
    HeldOff (s.verified n line cursor origin previous) := by
  unfold State.verified
  split
  · exact h.stepped _
  · exact h.migrated none nofun

theorem verifyFailed (n : Fin 8) (line : Nat) (origin : Origin) (previous : Option (Fin 8)) :
    HeldOff (s.verifyFailed n line origin previous) := by
  unfold State.verifyFailed
  dsimp only
  split
  · refine occur ?_ _
    exact h.stepped _
  · refine occur (occur ?_ _) _
    exact h.migrated none nofun

theorem endVerify (n : Fin 8) (equal : Bool) : HeldOff (s.endVerify n equal) := by
  unfold State.endVerify
  split
  · split
    · exact h.verified _ _ _ _ _
    · exact h.verifyFailed _ _ _ _
  · exact h

theorem endOrphanVerify (n : Fin 8) (equal : Bool) : HeldOff (s.endOrphanVerify n equal) := by
  have retired : HeldOff { s with spareMap := s.spareMap.set n (s.spareMap.get n).retiredIfFree } := h
  unfold State.endOrphanVerify
  split
  · exact h
  · exact retired.occur _

/-! ### The command in execution -/

/-- A command that the parser hands over does not wait (R170). -/
theorem checkFrame : HeldOff s.checkFrame := by
  unfold State.checkFrame
  split
  · split <;> exact h
  · split
    · rename_i c _
      exact h.served _ (some ⟨c, _, false, false⟩) (by simp [State.stopWaits])
    · exact h

theorem resumeFrame : HeldOff s.resumeFrame := by
  unfold State.resumeFrame
  split
  · exact h.checkFrame
  · exact h

omit h in
/-- After the end of a command none waits, so it is enough that the others are as they should be (R172). -/
theorem of_finished (h : HeldOff { s with executing := none }) (st : Status) (payload : List Byte) :
    HeldOff (s.finish st payload) := by
  unfold State.finish
  split
  · rename_i hx
    exact h.served s.link s.executing (by simp [State.stopWaits, hx])
  · split
    · refine resumeFrame ?_
      exact h
    · split <;> exact h

theorem finish (st : Status) (payload : List Byte) : HeldOff (s.finish st payload) :=
  of_finished (h.served s.link none nofun) st payload

/-- A SCRUB_STOP waits for a SCRUB grant in progress (R179). -/
theorem waitForScrub (hg : s.scrubInProgress = true) : HeldOff s.waitForGrant := by
  obtain ⟨⟨run, copy, due, halted, _⟩, rest⟩ := h
  exact ⟨⟨run, copy, due, halted, fun _ => hg⟩, rest⟩

/-- The end of a response reaches the link and a reset that is due (R171). -/
theorem endResponse (characters : List Byte) (resetPart : Bool) : HeldOff (s.endResponse characters resetPart) := by
  obtain ⟨engines, fill, counts⟩ := h
  exact ⟨engines, fill, counts⟩

theorem breakParser (sent : Nat) : HeldOff (s.breakParser sent) := by
  have withdrawn : HeldOff s.withdraw := h.served _ _ fun hw => s.withdraw_stopWaits.symm.trans hw
  unfold State.breakParser
  split
  · exact h
  · exact h
  · exact withdrawn
  · exact h.endResponse _ _

/-! ### The scrub -/

/-- The scrub STOPPED (R145). -/
theorem stopped : HeldOff { s with scrub := s.scrub.stop } :=
  h.scrubbed _ (fun hr => (hr rfl).elim) fun _ => nofun

theorem advanceScrub : HeldOff s.advanceScrub :=
  h.rescrubbed _ fun idle => congrArg Scrub.run (Scrub.advance_idle _ _ _ idle)

theorem expireInterval : HeldOff s.expireInterval :=
  h.rescrubbed _ fun idle => congrArg Scrub.run (Scrub.expired_idle _ _ idle)

theorem expireLock : HeldOff s.expireLock := by
  have ended : HeldOff { s with lock := none } := h
  exact ended.occur .lockFault

theorem takeExpiries : HeldOff s.takeExpiries := by
  unfold State.takeExpiries
  refine expireInterval ?_
  split
  · exact h.expireLock
  · exact h

/-- A SCRUB grant ends: a SCRUB_STOP that waited for it ends, and otherwise HALTED pauses the scrub (R145, R146). -/
theorem scrubEnded : HeldOff ({ s with grant := none } : State).endScrubGrant := by
  obtain ⟨⟨run, copy, due, halted, stop⟩, ⟨below, done, written, populated, _⟩, counts⟩ := h
  have fill : FillOk { s with grant := none } := ⟨below, done, written, populated, nofun⟩
  unfold State.endScrubGrant
  split
  · refine of_finished ?_ .ok []
    exact ⟨⟨fun hr => (hr rfl).elim, copy, due, fun _ => .inr nofun, nofun⟩, fill, counts⟩
  · rename_i hw
    exact of_paused _ run copy due (fun hs => (hw hs).elim) fill counts

/-- A run that starts while no fill runs and no system reset is in progress, PAUSED in HALTED (R140, R146). -/
theorem startScrub (mode : ScrubMode) (hf : s.fill.filling = false) (hr : s.resetInProgress = false) :
    HeldOff (s.startScrub mode) := by
  obtain ⟨⟨_, copy, due, _, stop⟩, rest⟩ := h
  refine ⟨⟨fun _ => ⟨hf, hr⟩, copy, due, fun hm => .inr ?_, stop⟩, rest⟩
  have halted : s.faults.mode = .halted := hm
  simp [State.startScrub, halted]

/-- The device mode is HALTED after a release only where it was HALTED before (R155, R156). -/
theorem releaseMode (hf : FaultsOk s.faults s.settings.reactions) : HeldOff s.releaseMode := by
  obtain ⟨⟨run, copy, due, halted, stop⟩, rest⟩ := h
  obtain ⟨sources, _⟩ := hf
  have not_raised (hm : s.faults.demanded = .halted) : s.faults.mode = .halted := by
    rcases s.faults.demanded_cases with hd | ⟨src, hd⟩
    · rw [hd] at hm
      cases hm
    · have demanded := (sources src).2
      rw [hd, hm] at demanded
      cases hmode : s.faults.mode <;> simp_all [DeviceMode.rank]
  by_cases hm : s.faults.demanded = .halted
  · have same : s.releaseMode.scrub = s.scrub := if_pos hm
    refine ⟨⟨?_, copy, due, fun _ => ?_, stop⟩, rest⟩
    · rw [same]
      exact run
    · rw [same]
      exact halted (not_raised hm)
  · have resumed : s.releaseMode.scrub = s.scrub.resume := if_neg hm
    refine ⟨⟨fun hr => run ?_, copy, due, fun h => (hm h).elim, stop⟩, rest⟩
    rw [resumed] at hr
    exact s.scrub.resume_run hr

/-! ### The fill and the system reset -/

/-- One more location filled; the fill is DONE at P (R135). -/
theorem filled (loc : Nat) (hg : fillGrant s.grant = some loc) (hp : s.scrubInProgress = false) :
    HeldOff { s with grant := none, mem := s.mem.fillAt loc, fill := s.fill.advanced s.straps.populated } := by
  have freed := h.freed hp
  obtain ⟨_, ⟨below, _, written, populated, grant⟩, counts⟩ := h
  obtain ⟨⟨run, copy, due, halted, stop⟩, _⟩ := freed
  obtain ⟨hf, rfl⟩ := grant loc hg
  have not_done {p : Prop} (k : s.fill.filling = false ∧ s.resetInProgress = false) : p :=
    (Bool.false_ne_true (k.1.symm.trans hf)).elim
  have room := below hf
  obtain ⟨_, passed⟩ := s.mem.filled_fillAt s.fill.watermark
  have bound := s.mem.filled_fillAt_le s.fill.watermark
  refine ⟨⟨fun hr => not_done (run hr), fun hc => not_done (copy hc), due, halted, stop⟩,
    ⟨fun hn => ?_, fun hn => ?_, passed written, ?_, nofun⟩, counts⟩
  · simp only [Fill.advanced, hf, Bool.true_and, decide_eq_true_iff] at hn
    exact hn
  · simp only [Fill.advanced, hf, Bool.true_and, decide_eq_false_iff_not] at hn
    show s.fill.watermark + 1 = s.straps.populated
    omega
  · show (s.mem.fillAt s.fill.watermark).filled ≤ s.straps.populated
    omega

/-- A fill that is due begins: the system reset in progress holds the engines off (R134). -/
theorem fillBegun (hd : s.fill.due = true) (hg : s.grant = none) : HeldOff { s with fill := ⟨true, 0, false⟩ } := by
  obtain ⟨⟨run, copy, due, halted, stop⟩, ⟨_, _, _, populated, _⟩, counts⟩ := h
  have no_grant : fillGrant s.grant = none := by rw [hg]; rfl
  have not_over {p : Prop} (k : s.fill.filling = false ∧ s.resetInProgress = false) : p :=
    (Bool.false_ne_true (k.2.symm.trans (due hd))).elim
  refine ⟨⟨fun hr => not_over (run hr), fun hc => not_over (copy hc), nofun, halted, stop⟩,
    fillOk_begun _ rfl rfl populated no_grant, counts⟩

/-- A system reset that is over has no fill to begin (R38, R134). -/
theorem resetCompleted (hd : s.fill.due = false) (p : PortState) :
    HeldOff { s with resetInProgress := false, port := p } := by
  obtain ⟨⟨run, copy, _, rest⟩, ok⟩ := h
  refine ⟨⟨fun hr => ⟨(run hr).1, rfl⟩, fun hc => ⟨(copy hc).1, rfl⟩, fun hx => ?_, rest⟩, ok⟩
  exact (Bool.false_ne_true (hd.symm.trans hx)).elim

/-- A system reset stops the scrub and the engine, and leaves the operation in progress to finish (R8, R132, R134,
R148). -/
theorem systemReset : HeldOff s.systemReset := by
  obtain ⟨⟨_, _, _, _, stop⟩, fill, _⟩ := h
  obtain ⟨same_grant, same_progress⟩ := s.orphaned_views
  have ⟨_, _, _, populated, _⟩ := fill
  refine ⟨⟨fun hr => (hr rfl).elim, nofun, fun _ => rfl, nofun, fun hs => same_progress.trans (stop hs)⟩, ?_,
    ⟨Nat.zero_le _, Nat.zero_le _, Nat.zero_le _⟩⟩
  rcases s.resetFill_cases with ⟨hg, hf⟩ | ⟨hf, hw⟩
  · exact fillOk_begun _ (congrArg Fill.filling hf) (congrArg Fill.watermark hf) populated
      (same_grant.trans (by rw [hg]; rfl))
  · exact fillOk_kept fill hf hw rfl rfl same_grant

omit h in
/-- At power-on the fill alone has begun (R131, R133, R139). -/
theorem poweredOn (s : State) (straps : Straps) (level : Bool) : HeldOff (s.poweredOn straps level) :=
  ⟨⟨fun hr => (hr rfl).elim, nofun, nofun, nofun, nofun⟩, fillOk_begun _ rfl rfl (Nat.zero_le _) rfl,
    ⟨Nat.zero_le _, Nat.zero_le _, Nat.zero_le _⟩⟩

end HeldOff
end Sys2Proof.Machine
end

section
/-! Every command keeps held off what the fill, a system reset and HALTED hold off (R67, R116, R133 to R136, R139, R146,
R179). -/

namespace Sys2Proof.Machine

section
variable {s : State} (h : HeldOff s)
include h

/-! ### Power-on and reset -/

theorem execSystemReset_held (cause : ResetCause) : HeldAfter (execSystemReset cause s) := by
  have reset := h.systemReset
  unfold execSystemReset
  cases cause with
  | rstnFalls =>
    have fallen : HeldOff { s.systemReset with rstN := false } := reset
    exact .guarded h fun _ => fallen.settle
  | resetPart =>
    have taken : HeldOff { s.systemReset with resetDue := false } := reset
    exact .guarded h fun _ => taken.settle

theorem execRstNRises_held : HeldAfter (execRstNRises s) := by
  unfold execRstNRises
  split
  · exact .next h
  · exact .next h

theorem execResetCompletes_held : HeldAfter (execResetCompletes s) := by
  refine .guarded h fun hr => ?_
  obtain ⟨_, _, _, hd⟩ := s.resetOver_iff.mp hr
  exact (h.resetCompleted hd .ready).settle

theorem execFillBegins_held : HeldAfter (execFillBegins s) :=
  .guarded h fun ⟨hd, hg⟩ => (h.fillBegun hd hg).settle

/-! ### Commands of the upstream port -/

theorem execWriteInsertion_held : HeldAfter (execWriteInsertion s) := by
  unfold execWriteInsertion
  split
  · exact .guarded h fun _ => (h.insertWrite _ _ _).settle
  · exact .next h

theorem execWriteCompletion_held : HeldAfter (execWriteCompletion s) := by
  unfold execWriteCompletion
  split
  · rename_i req _ _ failed _ _
    have completed : HeldOff (s.complete req failed) := h
    exact completed.settled
  · exact .next h

theorem execReadBeatRetaken_held : HeldAfter (execReadBeatRetaken s) := by
  unfold execReadBeatRetaken
  split
  · exact .guarded h fun _ => h.retakeBeat.settle
  · exact .next h

/-! ### The ends of the array operations -/

theorem execForegroundRead_held (u : Upset) : HeldAfter (execForegroundRead u s) := by
  unfold execForegroundRead
  split
  · rename_i a loc location orphan hg
    have reported := (h.opened loc u (s.scrubInProgress_other hg nofun)).foregroundReport
      (decode ((s.opened loc u).mem.read loc)) a location false orphan
    refine .settled ?_
    split
    · exact reported
    · exact reported.answerBeat _
  · exact .next h

theorem execLockedReadDecode_held (u : Upset) : HeldAfter (execLockedReadDecode u s) := by
  unfold execLockedReadDecode
  split
  · rename_i a loc location orphan hg
    have reported := (h.opened loc u (s.scrubInProgress_other hg nofun)).foregroundReport
      (decode ((s.opened loc u).mem.read loc)) a location true orphan
    refine .settled ?_
    split
    · exact reported
    · exact reported.answerLocked _ _
  · exact .next h

theorem execDrainEnd_held (u : Upset) : HeldAfter (execDrainEnd u s) := by
  unfold execDrainEnd
  split
  · rename_i loc location dual orphan e rest hg _
    extract_lets t w r
    have stored : HeldOff ((t.store loc (drainWord e w)).storeDual dual (drainWord e w)) := by
      refine ((h.opened loc u (s.scrubInProgress_other hg nofun)).array _ ?_).array _ ?_
      · exact (Memory.filled_write _ _ _).1
      · cases dual <;> rfl
    have reported : HeldOff r := stored.mergeReport _ _ _
    have left : HeldOff (r.headDone rest (e.waiter && drainFailed e w)) := reported
    exact left.settled
  · exact .next h

theorem execPrefetchRead_held (u : Upset) : HeldAfter (execPrefetchRead u s) := by
  unfold execPrefetchRead
  split
  · rename_i entry a loc location orphan hg
    exact .settled (((h.opened loc u (s.scrubInProgress_other hg nofun)).prefetchReport _ _ _ _).keepPrefetched _ _ _)
  · exact .next h

theorem execFillWrite_held : HeldAfter (execFillWrite s) := by
  unfold execFillWrite
  split
  · rename_i loc orphan hg
    exact (h.filled loc (by rw [hg]; rfl) (s.scrubInProgress_other hg nofun)).settled
  · exact .next h

theorem execInspectRead_held (u : Upset) : HeldAfter (execInspectRead u s) := by
  unfold execInspectRead
  split
  · rename_i loc orphan hg
    exact ((h.opened loc u (s.scrubInProgress_other hg nofun)).finish _ _).settled
  · exact .next h

theorem execScrubWord_held (u : Upset) : HeldAfter (execScrubWord u s) := by
  unfold execScrubWord
  split
  · rename_i a loc location orphan _
    extract_lets m w t x
    have stored : HeldOff { s with mem := if scrubbedWord w = w then m else m.write loc (scrubbedWord w) } := by
      refine h.array _ ?_
      split <;> simp [m]
    have reported : HeldOff t := stored.scrubReport _ _ _
    refine .settled ?_
    show HeldOff ({ (if orphan then t else t.advanceScrub) with grant := none } : State).endScrubGrant
    cases orphan with
    | true => exact reported.scrubEnded
    | false => exact reported.advanceScrub.scrubEnded
  · exact .next h

/-! ### Commands of the migration -/

theorem execMigrationStart_held : HeldAfter (execMigrationStart s) := by
  unfold execMigrationStart
  split
  · rename_i hm
    obtain ⟨⟨_, hf⟩, hr⟩ : (s.migration = none ∧ s.fill.filling = false) ∧ s.resetInProgress = false := by
      simpa [State.mayStart] using hm
    split
    · exact .next h
    · split
      · exact (h.startMigration _ _ _ hf hr).settled
      · exact (h.releaseLines _).settled
  · exact .next h

theorem execMigrationRead_held (u : Upset) : HeldAfter (execMigrationRead u s) := by
  unfold execMigrationRead
  split
  · rename_i a loc location orphan hg
    extract_lets t w r
    have reported : HeldOff r := (h.opened loc u (s.scrubInProgress_other hg nofun)).directReport _ _ _ _ _ _
    refine .settled ?_
    split
    · exact reported
    · exact reported.stepped _
  · exact .next h

theorem execMigrationWrite_held : HeldAfter (execMigrationWrite s) := by
  unfold execMigrationWrite
  split
  · rename_i loc w orphan hg
    extract_lets r
    have stored : HeldOff r := (h.freed (s.scrubInProgress_other hg nofun)).array _ (Memory.filled_write _ _ _).1
    refine .settled ?_
    split
    · exact stored
    · exact stored.stepped _
  · exact .next h

theorem execMigrationVerify_held (u : Upset) : HeldAfter (execMigrationVerify u s) := by
  unfold execMigrationVerify
  split
  · rename_i n loc w orphan hg
    have opened := h.opened loc u (s.scrubInProgress_other hg nofun)
    refine .settled ?_
    split
    · exact opened.endOrphanVerify n _
    · exact opened.endVerify n _
  · exact .next h

/-! ### The tick and the expiries -/

theorem execTick_held : HeldAfter (execTick s) := by
  have ticked := h.takeExpiries.rescrubbed s.takeExpiries.scrub.ticked fun idle =>
    congrArg Scrub.run (Scrub.ticked_idle _ idle)
  exact HeldOff.settled ticked

theorem execLockHoldExpiry_held : HeldAfter (execLockHoldExpiry s) := .guarded h fun _ => h.expireLock.settle

theorem execScrubIntervalExpiry_held : HeldAfter (execScrubIntervalExpiry s) :=
  .guarded h fun _ => h.expireInterval.settle

/-! ### Commands of the link -/

/-- What the link does by itself holds nothing off and lets nothing go. -/
theorem HeldOff.linked (l : Link) : HeldOff { s with link := l } := h

theorem execCharacterReceived_held (samples : BitVec 30) : HeldAfter (execCharacterReceived samples s) := by
  unfold execCharacterReceived
  split <;> exact .next h

theorem execBreakReceived_held (sent : Nat) : HeldAfter (execBreakReceived sent s) := by
  unfold execBreakReceived
  split
  · exact .guarded h fun _ => (h.linked _).breakParser sent
  · exact .next h

theorem execParserTakesItem_held : HeldAfter (execParserTakesItem s) := by
  unfold execParserTakesItem
  split
  · exact .next (h.linked _)
  · split
    · exact .next h
    · exact .next (h.linked _).resumeFrame
  · exact .next h

theorem execFrameTimerExpiry_held : HeldAfter (execFrameTimerExpiry s) := .guarded h fun _ => h.linked _

theorem execResponseSent_held : HeldAfter (execResponseSent s) := by
  unfold execResponseSent
  split
  · exact .next (h.endResponse _ _)
  · exact .next h

theorem execStartBitDetected_held (samples : BitVec 3) : HeldAfter (execStartBitDetected samples s) :=
  .guarded h fun _ => h.linked _

theorem execReceiverReturnsToIdle_held : HeldAfter (execReceiverReturnsToIdle s) := by
  unfold execReceiverReturnsToIdle
  split <;> exact .next h

/-! ### Service commands -/

/-- A service command is carried out where the Command Unit has been handed it. -/
theorem HeldAfter.served (c : SvcCommand) (f : State → State) (hf : s.handed c = true → HeldOff (f s)) :
    HeldAfter (s.serve c f) :=
  .guarded h hf

/-- A service command that is answered with a payload and does nothing else. -/
theorem HeldAfter.answered (c : SvcCommand) (payload : State → List Byte) :
    HeldAfter (s.serve c fun t => t.finish .ok (payload t)) :=
  .served h _ _ fun _ => h.finish .ok (payload s)

theorem execClearFaults_held (mask : BitVec 16) : HeldAfter (execClearFaults mask s) := by
  refine .served h _ _ fun _ => ?_
  have cleared : HeldOff (s.clearFaults mask) := h
  split
  · exact h.finish _ _
  · exact cleared.finish _ _

theorem execReleaseMode_held (hf : FaultsOk s.faults s.settings.reactions) : HeldAfter (execReleaseMode s) :=
  .served h _ _ fun _ => ((h.releaseMode hf).finish _ _).settle

theorem execReadRecords_held (index count : Byte) : HeldAfter (execReadRecords index count s) := by
  refine .served h _ _ fun _ => ?_
  split <;> exact h.finish _ _

theorem execCloseRecord_held (address : BitVec 24) : HeldAfter (execCloseRecord address s) := by
  refine .served h _ _ fun _ => ?_
  have closed : HeldOff { s with records := withoutRecord address.toNat s.records } := h
  split
  · exact h.finish _ _
  · split
    · exact h.finish _ _
    · exact closed.finish _ _

theorem execClearRecords_held : HeldAfter (execClearRecords s) := by
  have cleared : HeldOff { s with records := s.records.filter ErrRecord.pinned } := h
  exact .served h _ _ fun _ => cleared.finish _ _

theorem execSpareLine_held (line : BitVec 24) : HeldAfter (execSpareLine line s) := by
  refine .served h _ _ fun _ => ?_
  split
  · exact h.finish _ _
  · split
    · exact h.finish _ _
    · rename_i hb
      obtain ⟨⟨⟨hr, hf⟩, _⟩, _⟩ : ((s.resetInProgress = false ∧ s.fill.filling = false) ∧ s.migration = none) ∧
          s.lineLocked line.toNat = false := by
        simpa [State.spareBusy] using hb
      split
      · exact h.finish _ _
      · exact ((h.startMigration _ _ _ hf hr).finish _ _).settle

theorem execScrubStart_held (mode : Byte) : HeldAfter (execScrubStart mode s) := by
  refine .served h _ _ fun _ => ?_
  split
  · exact h.finish _ _
  · rename_i m _
    split
    · exact h.finish _ _
    · rename_i hb
      obtain ⟨⟨_, hf⟩, hr⟩ : (s.scrub.run = .stopped ∧ s.fill.filling = false) ∧ s.resetInProgress = false := by
        simpa [State.scrubBusy] using hb
      exact ((h.startScrub m hf hr).finish _ _).settle

theorem execScrubStop_held : HeldAfter (execScrubStop s) := by
  refine .served h _ _ fun _ => ?_
  dsimp only
  split
  · exact h.waitForScrub (s.scrubInProgress_of_granted ‹_›)
  · split
    · exact h.stopped.waitForScrub ‹_›
    · exact (h.stopped.finish _ _).settle

theorem execGetSetting_held (item : Byte) : HeldAfter (execGetSetting item s) := by
  refine .served h _ _ fun _ => ?_
  split <;> exact h.finish _ _

theorem execSetSetting_held (item : Byte) (value : Word) : HeldAfter (execSetSetting item value s) := by
  have put : HeldOff { s with settings := (s.putSetting item value).2 } := h
  unfold execSetSetting
  split
  · exact .next h
  · exact .served h _ _ fun _ => put.finish _ _

theorem execSetReaction_held (source : FaultSource) (value : Word) : HeldAfter (execSetReaction source value s) := by
  refine .served h _ _ fun _ => ?_
  split
  · exact h.finish _ _
  · rename_i r _
    have configured : HeldOff { s with settings :=
      { s.settings with reactions := s.settings.reactions.set source r } } := h
    exact ((configured.faulted (s.faults.react source r)).finish _ _).settle

/-- An INSPECT that waits is no SCRUB_STOP (R180). -/
theorem execInspect_held (location : BitVec 24) : HeldAfter (execInspect location s) := by
  refine .served h _ _ fun hc => ?_
  split
  · exact h.finish _ _
  · split
    · exact h.finish _ _
    · refine (h.served s.link _ fun hw => ?_).settle
      cases hx : s.executing with
      | none => simp [State.stopWaits, hx] at hw
      | some e =>
        have inspects : e.command = .inspect location ∧ e.waiting = false := by simpa [State.handed, hx] using hc
        simp [State.stopWaits, hx, inspects] at hw

/-! ### Every command -/

/-- Every command keeps the invariant where the Fault Unit is consistent. -/
theorem exec_held (c : Instr) (hf : FaultsOk s.faults s.settings.reactions) : HeldAfter (exec c s) := by
  cases c with
  | powerOn straps rstN => exact (HeldOff.poweredOn s straps rstN).settled
  | systemReset cause => exact execSystemReset_held h cause
  | rstNRises => exact execRstNRises_held h
  | resetCompletes => exact execResetCompletes_held h
  | fillBegins => exact execFillBegins_held h
  | readRequest | writeRequest | lockedReadRequest | lockedWriteRequest => exact .guarded h fun _ => h.present _
  | writeInsertion => exact execWriteInsertion_held h
  | writeCompletion => exact execWriteCompletion_held h
  | readBeatRetaken => exact execReadBeatRetaken_held h
  | foregroundRead u => exact execForegroundRead_held h u
  | lockedReadDecode u => exact execLockedReadDecode_held h u
  | drainEnd u => exact execDrainEnd_held h u
  | prefetchRead u => exact execPrefetchRead_held h u
  | fillWrite => exact execFillWrite_held h
  | migrationStart => exact execMigrationStart_held h
  | migrationRead u => exact execMigrationRead_held h u
  | migrationWrite => exact execMigrationWrite_held h
  | migrationVerify u => exact execMigrationVerify_held h u
  | scrubWord u => exact execScrubWord_held h u
  | tick => exact execTick_held h
  | lockHoldExpiry => exact execLockHoldExpiry_held h
  | scrubIntervalExpiry => exact execScrubIntervalExpiry_held h
  | characterReceived samples => exact execCharacterReceived_held h samples
  | breakReceived sent => exact execBreakReceived_held h sent
  | parserTakesItem => exact execParserTakesItem_held h
  | frameTimerExpiry => exact execFrameTimerExpiry_held h
  | responseSent => exact execResponseSent_held h
  | identify => exact .answered h .identify fun t => identifyBytes t.straps
  | readStatus => exact .answered h .readStatus State.statusBytes
  | readFaults => exact .answered h .readFaults State.faultBytes
  | readSpareMap => exact .answered h .readSpareMap fun t => spareMapBytes t.spareMap
  | resetPart => exact .answered h .resetPart fun _ => []
  | clearFaults mask => exact execClearFaults_held h mask
  | releaseMode => exact execReleaseMode_held h hf
  | readRecords index count => exact execReadRecords_held h index count
  | closeRecord address => exact execCloseRecord_held h address
  | clearRecords => exact execClearRecords_held h
  | spareLine line => exact execSpareLine_held h line
  | scrubStart mode => exact execScrubStart_held h mode
  | scrubStop => exact execScrubStop_held h
  | getSetting item => exact execGetSetting_held h item
  | setSetting item value => exact execSetSetting_held h item value
  | setReaction source value => exact execSetReaction_held h source value
  | inspect location => exact execInspect_held h location
  | inspectRead u => exact execInspectRead_held h u
  | startBitDetected samples => exact execStartBitDetected_held h samples
  | receiverReturnsToIdle => exact execReceiverReturnsToIdle_held h

end

/-- Settles O57: on an empty queue of commands a step idles, and otherwise it runs the command at the front. -/
theorem enginesStayHeldOff : Obligations.EnginesStayHeldOff := by
  intro s t hf h ht
  unfold step at ht
  split at ht
  · obtain rfl := Host.Outcome.next.inj ht
    exact h
  · rename_i c cs _
    have front : HeldOff (s.withPending cs) := h
    exact exec_held front c hf t ht

end Sys2Proof.Machine
end

section
/-! The words of a prefetch above the watermark, as a run of the served line (R73). -/

namespace Sys2Proof.Machine

/-! ### Entries of the buffer -/

theorem ReadAhead.get_set_same (ra : ReadAhead) (i : Fin 2) (e : RaEntry) : (ra.set i e).get i = e := by
  unfold ReadAhead.set ReadAhead.get
  split <;> simp_all

theorem ReadAhead.get_set_other (ra : ReadAhead) (i j : Fin 2) (e : RaEntry) (h : j ≠ i) :
    (ra.set i e).get j = ra.get j := by
  unfold ReadAhead.set ReadAhead.get
  split <;> split <;> (try rfl) <;> omega

theorem ReadAhead.set_get (ra : ReadAhead) (i : Fin 2) : ra.set i (ra.get i) = ra := by
  unfold ReadAhead.set ReadAhead.get
  split <;> rfl

theorem ReadAhead.set_set (ra : ReadAhead) (i : Fin 2) (e f : RaEntry) : (ra.set i e).set i f = ra.set i f := by
  unfold ReadAhead.set
  split <;> rfl

/-- A served line goes on being served while it is FILLING (R73). -/
theorem ReadAhead.served_set (ra : ReadAhead) (i : Fin 2) (line : Nat) (early : Bool) (slots x : List RaSlot)
    (hs : ra.served = some i) (hg : ra.get i = .filling line early slots) :
    (ra.set i (.filling line early x)).served = some i := by
  obtain ⟨e0, e1⟩ := ra
  rcases (by omega : i = 0 ∨ i = 1) with rfl | rfl
  · obtain rfl : e0 = _ := hg
    cases e1 <;> exact hs
  · obtain rfl : e1 = _ := hg
    cases e0 <;> exact hs

/-- Where no entry is FILLING none is served (R73). -/
theorem ReadAhead.served_none (ra : ReadAhead) (h : ∀ i line early slots, ra.get i ≠ .filling line early slots) :
    ra.served = none := by
  cases hs : ra.served with
  | none => rfl
  | some i =>
    obtain ⟨⟨line, early, slots, hg⟩, _⟩ := (ra.served_iff i).mp hs
    exact (h i line early slots hg).elim

/-! ### The served line -/

/-- The served line's next word is the one the prefetch is to read (R73). -/
theorem State.prefetchWord_served (s : State) (i : Fin 2) (line : Nat) (early : Bool) (slots : List RaSlot)
    (hs : s.readAhead.served = some i) (hg : s.readAhead.get i = .filling line early slots) :
    s.prefetchWord = some (i, 8 * line + slots.length) := by
  simp [State.prefetchWord, hs, hg]

/-- Words filled in two goes. -/
theorem State.zeroFill_add (n k : Nat) : ∀ s : State, (s.zeroFill n).zeroFill k = s.zeroFill (n + k) := by
  induction n with
  | zero => exact fun s => by rw [Nat.zero_add, State.zeroFill]
  | succ n ih =>
    intro s
    rw [Nat.succ_add]
    cases hp : s.prefetchWord with
    | none =>
      have idle (m : Nat) : s.zeroFill m = s := by cases m <;> simp [State.zeroFill, hp]
      rw [idle, idle, idle]
    | some p =>
      cases hu : s.unfilled (s.translate p.2).1 with
      | true => rw [s.zeroFill_unfilled _ p.2 p.1 hp hu, s.zeroFill_unfilled _ p.2 p.1 hp hu, ih]
      | false => simp only [s.zeroFill_filled _ p.2 p.1 hp hu]

/-- A word filled in advance is not filled again: sixteen are all that there can be. -/
theorem State.zeroFill_fillSlot (s : State) (a : Nat) (i : Fin 2) (hp : s.prefetchWord = some (i, a))
    (hu : s.unfilled (s.translate a).1 = true) : (s.fillSlot i (.good 0)).zeroFill 16 = s.zeroFill 16 := by
  rw [← s.zeroFill_unfilled 16 a i hp hu, ← s.zeroFill_done 1, State.zeroFill_add]

/-- While no fill runs nothing is filled with zero (R62). -/
theorem State.zeroFill_no_fill (s : State) (n : Nat) (h : s.fill.filling = false) : s.zeroFill n = s := by
  cases hp : s.prefetchWord with
  | none => cases n <;> simp [State.zeroFill, hp]
  | some p => exact s.zeroFill_filled n p.2 p.1 hp (by simp [State.unfilled, h])

/-- The served line is filled with zero from its next word on as far as the words lie above the watermark; where that is
all of it, it is VALID and the other line is served next (R73). -/
theorem State.zeroFill_run (i : Fin 2) (line : Nat) (early : Bool) (d : Nat) : ∀ (s : State) (slots : List RaSlot),
    slots.length < 8 → 8 ≤ slots.length + d → s.readAhead.served = some i →
    s.readAhead.get i = .filling line early slots →
    ∃ m, slots.length + m ≤ 8 ∧
      (∀ j, slots.length ≤ j → j < slots.length + m → s.unfilled (s.translate (8 * line + j)).1 = true) ∧
      (slots.length + m < 8 → s.unfilled (s.translate (8 * line + slots.length + m)).1 = false ∧
        s.zeroFill 16 = { s with
          readAhead := s.readAhead.set i (.filling line early (slots ++ List.replicate m (.good 0))) }) ∧
      (slots.length + m = 8 → s.zeroFill 16 = ({ s with
        readAhead := s.readAhead.set i (.valid line early (slots ++ List.replicate m (.good 0))) } :
          State).zeroFill 16) := by
  induction d with
  | zero => exact fun s slots h8 hd => by omega
  | succ d ih =>
    intro s slots h8 hd hs hg
    have hp := s.prefetchWord_served i line early slots hs hg
    cases hu : s.unfilled (s.translate (8 * line + slots.length)).1 with
    | false =>
      refine ⟨0, by omega, fun j h1 h2 => by omega, fun _ => ⟨hu, ?_⟩, fun h => by omega⟩
      rw [s.zeroFill_filled 16 _ i hp hu, List.replicate_zero, List.append_nil, ← hg, ReadAhead.set_get]
    | true =>
      have filled := s.zeroFill_fillSlot _ i hp hu
      have hnext : s.fillSlot i (.good 0) =
          { s with readAhead := s.readAhead.set i ((RaEntry.filling line early slots).filled (.good 0)) } := by
        rw [← hg]
        rfl
      rw [hnext] at filled
      by_cases h7 : slots.length < 7
      · rw [RaEntry.filled, if_pos h7] at filled
        obtain ⟨m, hm, hwords, hstop, hfull⟩ := ih
          { s with readAhead := s.readAhead.set i (.filling line early (slots ++ [.good 0])) } (slots ++ [.good 0])
          (by simp; omega) (by simp; omega) (s.readAhead.served_set i line early slots _ hs hg)
          (s.readAhead.get_set_same i _)
        simp only [List.length_append, List.length_singleton, ReadAhead.set_set, List.append_assoc,
          List.singleton_append, ← List.replicate_succ] at hm hwords hstop hfull
        refine ⟨m + 1, by omega, fun j h1 h2 => ?_, fun h => ?_, fun h => ?_⟩
        · by_cases hj : j = slots.length
          · rw [hj]
            exact hu
          · exact hwords j (by omega) (by omega)
        · obtain ⟨hlast, he⟩ := hstop (by omega)
          refine ⟨?_, filled.symm.trans he⟩
          rw [show 8 * line + slots.length + (m + 1) = 8 * line + (slots.length + 1) + m by omega]
          exact hlast
        · exact filled.symm.trans (hfull (by omega))
      · rw [RaEntry.filled, if_neg h7] at filled
        refine ⟨1, by omega, fun j h1 h2 => ?_, fun h => by omega, fun _ => filled.symm⟩
        rw [show j = slots.length by omega]
        exact hu

end Sys2Proof.Machine
end

section
/-! The end of an event (R64, R73). -/

namespace Sys2Proof.Machine

/-- A location is unfilled at or above the watermark of a running fill (R62). -/
theorem State.unfilled_iff (s : State) (loc : Nat) :
    s.unfilled loc = true ↔ s.fill.filling = true ∧ s.fill.watermark ≤ loc := by
  simp [State.unfilled]

theorem State.unfilled_eq_false (s : State) (loc : Nat) :
    s.unfilled loc = false ↔ ¬ (s.fill.filling = true ∧ s.fill.watermark ≤ loc) := by
  rw [← s.unfilled_iff, Bool.not_eq_true]

/-- The arbiter comes after the read-ahead buffer, and leaves it as it is (R64). -/
theorem State.settle_readAhead (s : State) : s.settle.readAhead = (s.zeroFill 16).readAhead := by
  simp [State.settle]

/-- As `zeroFill_eq`, with the buffer named. -/
theorem State.zeroFill_with (s : State) (n : Nat) :
    s.zeroFill n = { s with readAhead := (s.zeroFill n).readAhead } := by
  obtain ⟨ra, h⟩ := State.zeroFill_eq n s
  rw [h]

/-- Settles O21: the buffer by the run of the served line, then the arbiter. -/
theorem eventEnds : Obligations.EventEnds := by
  intro s unfilled
  refine ⟨s.settle_apart, ?_, fun h => ?_, fun i line early slots hs hg h8 => ?_, fun hg => ?_, fun hr => ?_⟩
  · rw [s.settle_readAhead, ← s.zeroFill_with]
    rfl
  · rw [s.settle_readAhead]
    rcases h with h | h
    · rw [s.zeroFill_idle 16 h]
    · rw [s.zeroFill_no_fill 16 h]
  · obtain ⟨m, hm, hwords, hstop, hfull⟩ := State.zeroFill_run i line early 8 s slots h8 (by omega) hs hg
    refine ⟨m, hm, fun j h1 h2 => (s.unfilled_iff _).mp (hwords j h1 h2), fun h => ?_, fun h => ?_⟩
    · obtain ⟨hlast, he⟩ := hstop h
      exact ⟨(s.unfilled_eq_false _).mp hlast, s.settle_readAhead.trans (congrArg State.readAhead he)⟩
    · rw [s.settle_readAhead, hfull h, State.settle_readAhead]
  · rw [s.settle_busy hg, ← s.zeroFill_with]
  · refine s.settle_scrub (Bool.eq_false_iff.mpr fun hs => ?_)
    obtain ⟨mode, left, hx⟩ := s.stands_scrub_iff.mp hs
    exact hr mode left hx

end Sys2Proof.Machine
end

section
/-! The arbiter's choice (R64, R66, R67, R134, R141). -/

namespace Sys2Proof.Machine

/-! ### The first of a list -/

/-- What is found is the first in the list for which the condition holds. -/
theorem find?_eq_some_iff_first {α : Type} [DecidableEq α] (p : α → Bool) (c : α) (l : List α) :
    l.find? p = some c ↔ (p c = true ∧ c ∈ l) ∧ ∀ k ∈ l, p k = true → ¬ l.idxOf k < l.idxOf c := by
  induction l with
  | nil => simp
  | cons x l ih =>
    cases hx : p x with
    | true =>
      rw [List.find?_cons_of_pos hx]
      constructor
      · intro h
        obtain rfl := Option.some.inj h
        exact ⟨⟨hx, List.mem_cons_self⟩, fun k _ _ => by simp⟩
      · rintro ⟨_, first⟩
        by_contra hne
        have later : x ≠ c := fun e => hne (congrArg some e)
        refine first x List.mem_cons_self hx ?_
        simp [List.idxOf_cons_ne _ later]
    | false =>
      have not_head (k : α) (hk : p k = true) : x ≠ k := by
        rintro rfl
        exact Bool.false_ne_true (hx.symm.trans hk)
      rw [List.find?_cons_of_neg (by simp [hx]), ih]
      constructor
      · rintro ⟨⟨hc, hm⟩, first⟩
        refine ⟨⟨hc, List.mem_cons_of_mem x hm⟩, fun k hk hpk => ?_⟩
        have := first k ((List.mem_cons.mp hk).resolve_left (not_head k hpk).symm) hpk
        rw [List.idxOf_cons_ne _ (not_head k hpk), List.idxOf_cons_ne _ (not_head c hc)]
        omega
      · rintro ⟨⟨hc, hm⟩, first⟩
        refine ⟨⟨hc, (List.mem_cons.mp hm).resolve_left (not_head c hc).symm⟩, fun k hk hpk => ?_⟩
        have := first k (List.mem_cons_of_mem x hk) hpk
        rw [List.idxOf_cons_ne _ (not_head k hpk), List.idxOf_cons_ne _ (not_head c hc)] at this
        omega

theorem ReqClass.mem_all (c : ReqClass) : c ∈ ReqClass.all := by cases c <;> decide

/-- The highest ranked class of which a condition holds (R66). -/
theorem ReqClass.find?_all (p : ReqClass → Bool) (c : ReqClass) :
    ReqClass.all.find? p = some c ↔
      p c = true ∧ ∀ k, p k = true → ¬ ReqClass.all.idxOf k < ReqClass.all.idxOf c := by
  rw [find?_eq_some_iff_first]
  simp [ReqClass.mem_all]

/-! ### The winner -/

/-- The class that receives the next grant: a counted class at 32 before every other, and among those that come into
question the highest ranked (R66, R67). -/
theorem State.winner_iff (s : State) (c : ReqClass) :
    let at32 (k : ReqClass) : Prop := s.stands k = true ∧ s.passOver.of k = some 32
    let outranks (k l : ReqClass) : Prop := ReqClass.all.idxOf k < ReqClass.all.idxOf l
    s.winner = some c ↔ at32 c ∧ (∀ k, at32 k → ¬ outranks k c) ∨
      (∀ k, ¬ at32 k) ∧ s.stands c = true ∧ ∀ k, s.stands k = true → ¬ outranks k c := by
  intro at32 outranks
  have first (k : ReqClass) := ReqClass.find?_all (fun c => s.stands c && decide (s.passOver.of c = some 32)) k
  simp only [Bool.and_eq_true, decide_eq_true_iff] at first
  unfold State.winner
  split
  · rename_i d hd
    obtain ⟨hat, _⟩ := (first d).mp hd
    rw [← hd, first c]
    exact ⟨.inl, fun h => h.resolve_right fun ⟨none_at, _⟩ => none_at d hat⟩
  · rename_i hn
    have none_at (k : ReqClass) : ¬ at32 k := by
      have not_found := List.find?_eq_none.mp hn k k.mem_all
      simp only [Bool.and_eq_true, decide_eq_true_iff] at not_found
      exact not_found
    rw [ReqClass.find?_all]
    exact ⟨fun h => .inr ⟨none_at, h⟩, fun h => (h.resolve_left fun ⟨hat, _⟩ => none_at c hat).2⟩

/-- The counts after a grant (R67). -/
theorem State.countsAfter_of (s : State) (c k : ReqClass) (hk : k = .fill ∨ k = .migration ∨ k = .scrub) :
    (s.countsAfter c).of k = if k = c then some 0
      else if s.stands k then (s.passOver.of k).map fun n => min (n + 1) 32 else s.passOver.of k := by
  have count (n : Nat) : some (countAfter c k (s.stands k) n) = if k = c then some 0
      else if s.stands k then (some n).map fun n => min (n + 1) 32 else some n := by
    rw [countAfter, apply_ite some, apply_ite some]
    simp only [eq_comm (a := c), Option.map_some]
  rcases hk with rfl | rfl | rfl <;> exact count _

/-- Settles O22: the choice, the counts, and the arbiter by whether it skips. -/
theorem arbiterGrants : Obligations.ArbiterGrants := by
  intro s c counted at32 outranks counts
  have free (hg : s.grant = none) (hd : s.fill.due = false) : s.arrayFree = true := by
    simp [State.arrayFree, hg, hd]
  refine ⟨rfl, fun p => ⟨rfl, rfl, rfl⟩, fun k hk => ?_, fun h => s.arbitrate_busy ?_, s.winner_iff c,
    fun hg hd hw hskip => ⟨s.countsAfter c, s.countsAfter_of c, ?_⟩, fun hg hd hw hc hskip => ?_, fun _ _ hw => ?_⟩
  · cases k with
    | fill | migration | scrub => simp [counted] at hk
    | foreground | drain | service | prefetch => rfl
  · rcases h with h | h <;> simp [State.arrayFree, h]
  · have no_skip : ¬ (s.winner = some .scrub ∧ s.scrubSkips = true) := fun ⟨hs, hk⟩ =>
      hskip ⟨Option.some.inj (hw.symm.trans hs), hk⟩
    rw [s.arbitrate_grant no_skip, hw]
    exact if_pos (free hg hd)
  · subst hc
    exact ⟨s.arbitrate_skip (free hg hd) hw hskip, s.countsAfter_of .scrub⟩
  · rw [s.arbitrate_grant (by simp [hw]), hw]

end Sys2Proof.Machine
end

section
/-! A scrubbed word and a skipped word (R67, R141, R146). -/

namespace Sys2Proof.Machine

/-- A scrub's word of the present run is scrubbed and reported, and the cursors are moved on; the scrub pauses where the
mode is then HALTED (R141, R142, R146). -/
theorem exec_scrubWord_present (s : State) (a loc : Nat) (k : Location) (u : Upset) (hm : s.mem.wf = true)
    (hg : s.grant = some ⟨.scrub a loc k, false⟩) (hw : s.stopWaits = false) :
    ∃ m, exec (.scrubWord u) s =
        .next (({ (({ s with mem := m } : State).scrubReport (decode (s.found loc u)) a k).advanceScrub with
          grant := none } : State).pauseIfHalted).settle ∧
      Holds m s.mem loc (scrubbedWord (s.found loc u)) := by
  obtain ⟨m, he, hh⟩ := exec_scrubWord s a loc k false u hm hg
  have no_stop : ({ (({ s with mem := m } : State).scrubReport (decode (s.found loc u)) a k).advanceScrub with
      grant := none } : State).stopWaits = false :=
    (State.stopWaits_congr s _ (State.scrubReport_executing { s with mem := m } _ _ _)).trans hw
  refine ⟨m, ?_, hh⟩
  rw [← State.endScrubGrant_pause _ no_stop]
  exact he

/-- A line is COPYING where some slot is COPYING it (R113). -/
theorem State.copying_iff (s : State) (line : Nat) :
    s.copying line = true ↔ ∃ n cursor o q, s.spareMap.get n = .copying line cursor o q := by
  rw [← Bool.not_eq_false, s.copying_eq_false_iff]
  simp

/-- The words that the scrub skips (R141). -/
theorem State.scrubSkips_iff (s : State) :
    s.scrubSkips = true ↔ (∃ e ∈ s.queue, e.address = s.scrub.address) ∨
      (∃ l, s.lock = some l ∧ l.address = s.scrub.address) ∨
      ∃ n cursor o q, s.spareMap.get n = .copying (s.scrub.address / 8) cursor o q := by
  rw [← holdsWord_iff, ← s.copying_iff]
  cases hl : s.lock <;> simp [State.scrubSkips, hl, lineOf, or_assoc]

/-- Settles O33: a word by the outcome of its decode, and a word that is skipped. -/
theorem scrubWordEnds : Obligations.ScrubWordEnds := by
  refine ⟨fun s a loc k u hm hg hw => ?_, fun s => ⟨s.scrubSkips_iff, rfl⟩⟩
  intro w d ends
  obtain ⟨m, he, hh⟩ := exec_scrubWord_present s a loc k u hm hg hw
  have not_poisoned (o : DecodeOutcome) (ho : o ≠ .poisoned) (h : d.outcome = o) := State.scrubReport_direct
    ({ s with mem := m } : State) d a k (ne_of_eq_of_ne h ho)
  refine ⟨fun h => ?_, fun h => ?_, fun h => ?_, fun h => ?_⟩ <;> rw [scrubbedWord, h] at hh <;>
    refine ⟨m, ?_, hh⟩ <;> rw [he]
  · rw [not_poisoned _ (by decide) h, State.directReport_clean _ _ _ _ _ _ _ h]
    rfl
  · rw [not_poisoned _ (by decide) h, State.directReport_corrected _ _ _ _ _ _ _ h]
    rfl
  · have hf : (decode w).Fails .uncorrectable := .inl ⟨h, rfl⟩
    rw [not_poisoned _ (by decide) h, State.directReport_fails _ _ _ _ _ _ _ _ hf]
    rfl
  · rw [State.scrubReport_poisoned _ _ _ _ h]
    rfl

end Sys2Proof.Machine
end

section
/-! The start of a prefetch (R69 to R73). -/

namespace Sys2Proof.Machine

/-! ### What the fill with zero looks at -/

/-- Whether a word is filled depends on the fill, the map and the straps alone (R60, R62). -/
theorem State.unfilled_congr (s t : State) (a : Nat) (hf : t.fill = s.fill) (hm : t.spareMap = s.spareMap)
    (hs : t.straps = s.straps) : t.unfilled (t.translate a).1 = s.unfilled (s.translate a).1 := by
  rw [State.unfilled, State.unfilled, hf, State.translate_congr s t a hm hs]

/-- The fill with zero looks at the buffer, the watermark and the translation alone (R60, R62, R73). -/
theorem State.zeroFill_congr (n : Nat) : ∀ s t : State, t.readAhead = s.readAhead → t.fill = s.fill →
    t.spareMap = s.spareMap → t.straps = s.straps → (t.zeroFill n).readAhead = (s.zeroFill n).readAhead := by
  induction n with
  | zero => exact fun _ _ h _ _ _ => h
  | succ n ih =>
    intro s t hra hf hm hs
    have same_word : t.prefetchWord = s.prefetchWord := by rw [State.prefetchWord, State.prefetchWord, hra]
    simp only [State.zeroFill, same_word]
    split
    · exact hra
    · rename_i i a _
      rw [State.unfilled_congr s t a hf hm hs]
      split
      · exact ih _ _ (by simp only [State.fillSlot, hra]) hf hm hs
      · exact hra

/-! ### The conditions -/

/-- The four conditions of R71. -/
theorem State.mayPrefetch_iff (s : State) (line : Nat) :
    s.mayPrefetch line = true ↔ line < s.straps.visibleLines ∧ s.readAhead.e0.line? ≠ some line ∧
      s.readAhead.e1.line? ≠ some line ∧ (∀ n cursor o q, s.spareMap.get n ≠ .copying line cursor o q) ∧
      ∀ e ∈ s.queue, e.kind = .busWrite ∨ e.kind = .lockedWrite → lineOf e.address ≠ line := by
  rw [← s.copying_eq_false_iff]
  simp [State.mayPrefetch, RaEntry.holds, and_assoc]

/-- The entry a starting prefetch takes (R72). -/
theorem ReadAhead.taken_eq (ra : ReadAhead) : ra.taken =
    if ra.e0 = .empty then 0 else if ra.e1 = .empty then 1 else if ra.e0.startedEarlier then 0 else 1 := by
  simp [ReadAhead.taken, RaEntry.isEmpty]

theorem ReadAhead.entryFor_eq (ra : ReadAhead) (line : Nat) : ra.entryFor line =
    if ra.e0.line? = some line then ra.e0 else if ra.e1.line? = some line then ra.e1 else .empty := by
  simp only [ReadAhead.entryFor, RaEntry.holds_iff]

/-- A touch that starts a prefetch leaves the buffer as the end of an event would leave the started one (R73). -/
theorem State.startPrefetch_readAhead (s : State) (line : Nat) : (s.startPrefetch line).readAhead =
    (({ s with readAhead := s.readAhead.start line } : State).zeroFill 16).readAhead :=
  State.zeroFill_congr 16 { s with readAhead := s.readAhead.start line } _ rfl rfl rfl rfl

/-- Where all the words that the served line has left lie above the watermark it is completed with zero (R73). -/
theorem State.zeroFill_whole (s : State) (i : Fin 2) (line : Nat) (early : Bool) (slots : List RaSlot)
    (hs : s.readAhead.served = some i) (hg : s.readAhead.get i = .filling line early slots) (h8 : slots.length < 8)
    (hwords : ∀ k, slots.length ≤ k → k < 8 → s.unfilled (s.translate (8 * line + k)).1 = true) :
    s.zeroFill 16 = ({ s with
      readAhead := s.readAhead.set i (.valid line early (slots ++ List.replicate (8 - slots.length) (.good 0))) } :
        State).zeroFill 16 := by
  obtain ⟨m, hm, _, hstop, hfull⟩ := State.zeroFill_run i line early 8 s slots h8 (by omega) hs hg
  have all : slots.length + m = 8 := by
    by_contra hne
    obtain ⟨hlast, _⟩ := hstop (by omega)
    rw [Nat.add_assoc, hwords _ (by omega) (by omega)] at hlast
    cases hlast
  rw [hfull all, show 8 - slots.length = m by omega]

/-- Settles O8: the buffer's operations, the start by its conditions, and the words that are filled at once. -/
theorem prefetchStart : Obligations.PrefetchStart := by
  refine ⟨fun line early slots => ⟨rfl, rfl, rfl, rfl, rfl, rfl, rfl, rfl, rfl⟩, fun ra e =>
    ⟨rfl, rfl, rfl, rfl, ra.entryFor_eq, fun i => ?_⟩, fun s a => ?_,
    fun s i line early slots hs hg h8 hf hwords alone => ?_⟩
  · rw [ra.served_iff]
    exact ⟨fun ⟨⟨line, early, slots, hg⟩, first⟩ => ⟨line, early, slots, hg, first⟩,
      fun ⟨line, early, slots, hg, first⟩ => ⟨⟨line, early, slots, hg⟩, first⟩⟩
  · intro line may taken started
    have htaken : taken = s.readAhead.taken := s.readAhead.taken_eq.symm
    have hstarted : started = s.readAhead.start line := by
      simp only [started, htaken, ReadAhead.start]
    have hmay : may ↔ (s.settings.readAhead && s.mayPrefetch (lineOf a + 1)) = true := by
      rw [Bool.and_eq_true, s.mayPrefetch_iff]
      exact Iff.rfl
    have starts (h : may) : s.touchLine a = s.startPrefetch line := if_pos (hmay.mp h)
    have stays (h : ¬ may) : s.touchLine a = s := if_neg fun hc => h (hmay.mpr hc)
    have grant (h : may) : (s.touchLine a).grant = detached (fun i => i = s.readAhead.taken) s.grant := by
      obtain ⟨ra, he⟩ := s.startPrefetch_eq line
      rw [starts h, he]
    refine ⟨stays, fun h hf => ?_, fun h => ?_, fun h x loc k o hx => ?_, fun hx => ?_, ?_⟩
    · rw [starts h, s.startPrefetch_readAhead, State.zeroFill_no_fill _ 16 (by exact hf), hstarted]
    · rw [starts h, s.startPrefetch_readAhead, State.settle_readAhead, hstarted]
    · rw [grant h, hx, detached_entry _ _ _ _ _ _ (decide_eq_true htaken)]
    · by_cases h : may
      · rw [grant h, detached_other _ _ fun i x loc k o hi => decide_eq_false ?_]
        rintro rfl
        exact hx x loc k o (htaken ▸ hi)
      · rw [stays h]
    · obtain ⟨ra, g, he, _⟩ := s.touchLine_eq a
      rw [he]
  · have whole := s.zeroFill_whole i line early slots hs hg h8 fun k h1 h2 =>
      (s.unfilled_iff _).mpr ⟨hf, hwords k h1 h2⟩
    have served_none : (s.readAhead.set i
        (.valid line early (slots ++ List.replicate (8 - slots.length) (.good 0)))).served = none := by
      refine ReadAhead.served_none _ fun j l e x hj => ?_
      by_cases hji : j = i
      · rw [hji, ReadAhead.get_set_same] at hj
        cases hj
      · rw [ReadAhead.get_set_other _ _ _ _ hji] at hj
        exact alone j hji _ _ _ hj
    rw [s.settle_readAhead, whole, State.zeroFill_idle 16 _ served_none]

end Sys2Proof.Machine
end

section
/-! A prefetched word: its report, the slot it fills, and the beat that waits for its line (R73 to R75). -/

namespace Sys2Proof.Machine

/-! ### The report -/

/-- A CORRECTED word is offered to the queue and reported with its answer (R74). -/
theorem State.prefetchReport_corrected (s : State) (d : Decoded) (a : Nat) (k : Location)
    (h : d.outcome = .corrected) : s.prefetchReport d a k false = ((s.offer .repair a d.data).arrive
      ⟨a, k, .corrected, d.bit, d.syndrome, .prefetch, offerAnswer s.queue a, false⟩).occur .corrected := by
  rw [State.prefetchReport, detected_corrected d h]
  rfl

/-- A prefetched word's report leaves the port, the buffer and what the fill with zero looks at. -/
theorem State.prefetchReport_frame (s : State) (d : Decoded) (a : Nat) (k : Location) (orphan : Bool) :
    (s.prefetchReport d a k orphan).port = s.port ∧ (s.prefetchReport d a k orphan).txn = s.txn ∧
    (s.prefetchReport d a k orphan).readAhead = s.readAhead ∧ (s.prefetchReport d a k orphan).fill = s.fill ∧
    (s.prefetchReport d a k orphan).spareMap = s.spareMap ∧ (s.prefetchReport d a k orphan).straps = s.straps := by
  unfold State.prefetchReport
  split
  · simp
  · cases orphan <;> simp
  · simp

/-- PREFETCH_READ for a grant that no system reset has abandoned (R73 to R75). -/
theorem exec_prefetchRead (s : State) (entry : Option (Fin 2)) (a loc : Nat) (k : Location) (u : Upset)
    (hm : s.mem.wf = true) (hg : s.grant = some ⟨.prefetch entry a loc k, false⟩) :
    exec (.prefetchRead u) s = .next ((((s.opened loc u).prefetchReport (decode (s.found loc u)) a k
      false).keepPrefetched entry (a / 8) (slotOf (decode (s.found loc u)) k)).settle) := by
  simp [exec, execPrefetchRead, hg, State.opened_read s loc u hm, lineOf]

/-- What a prefetched word's decode reports and the slot it fills, by its outcome (R74). -/
theorem prefetch_outcome (s : State) (w : StoredWord) (a : Nat) (k : Location) (x : State) (slot : RaSlot)
    (h : (decode w).outcome = .clean ∧ x = s ∧ slot = .good (decode w).data ∨
      (decode w).outcome = .corrected ∧ slot = .good (decode w).data ∧ x = ((s.offer .repair a (decode w).data).arrive
        ⟨a, k, .corrected, (decode w).bit, (decode w).syndrome, .prefetch, offerAnswer s.queue a, false⟩).occur
          .corrected ∨
      (decode w).outcome = .uncorrectable ∧ slot = .bad (decode w).data .uncorrectable (decode w).syndrome k ∧
        x = s.arrive ⟨a, k, .uncorrectable, none, (decode w).syndrome, .prefetch, .none, false⟩ ∨
      (decode w).outcome = .poisoned ∧ slot = .bad (decode w).data .poisoned none k ∧
        x = s.arrive ⟨a, k, .poisoned, none, none, .prefetch, .none, false⟩) :
    x = s.prefetchReport (decode w) a k false ∧ slot = slotOf (decode w) k := by
  rcases h with ⟨h, rfl, rfl⟩ | ⟨h, rfl, rfl⟩ | ⟨h, rfl, rfl⟩ | ⟨h, rfl, rfl⟩ <;> rw [slotOf, h] <;>
    refine ⟨?_, rfl⟩
  · rw [State.prefetchReport_clean _ _ _ _ _ h]
  · rw [State.prefetchReport_corrected _ _ _ _ h]
  · rw [State.prefetchReport_fails _ _ _ _ _ _ (.inl ⟨h, rfl⟩)]
  · rw [State.prefetchReport_fails _ _ _ _ _ _ (.inr ⟨h, rfl⟩), (decode_poisoned w h).2]

/-! ### The line of a beat that waits -/

theorem RaEntry.filled_line (e : RaEntry) (slot : RaSlot) : (e.filled slot).line? = e.line? := by
  unfold RaEntry.filled
  split
  · split <;> rfl
  · rfl

/-- The fill with zero leaves each entry with its line. -/
theorem State.zeroFill_line (i : Fin 2) (n : Nat) : ∀ s : State,
    ((s.zeroFill n).readAhead.get i).line? = (s.readAhead.get i).line? := by
  induction n with
  | zero => exact fun _ => rfl
  | succ n ih =>
    intro s
    rw [State.zeroFill]
    split
    · rfl
    · rename_i j a _
      split
      · rw [ih, State.fillSlot]
        by_cases hij : i = j
        · rw [hij, ReadAhead.get_set_same, RaEntry.filled_line]
        · rw [ReadAhead.get_set_other _ _ _ _ hij]
      · rfl

/-- An entry that is not FILLING, or whose next word lies below the watermark, is left as it is (R73). -/
theorem State.zeroFill_kept (i : Fin 2) (n : Nat) : ∀ s : State, (∀ line early slots,
    s.readAhead.get i = .filling line early slots →
      s.unfilled (s.translate (8 * line + slots.length)).1 = false) →
    (s.zeroFill n).readAhead.get i = s.readAhead.get i := by
  induction n with
  | zero => exact fun _ _ => rfl
  | succ n ih =>
    intro s below
    rw [State.zeroFill]
    split
    · rfl
    · rename_i j a hp
      split
      · rename_i hu
        have other : i ≠ j := by
          rintro rfl
          obtain ⟨line, early, slots, hg, rfl, _⟩ := (s.prefetchWord_iff i a).mp hp
          exact Bool.false_ne_true ((below line early slots hg).symm.trans hu)
        have same : (s.fillSlot j (.good 0)).readAhead.get i = s.readAhead.get i :=
          ReadAhead.get_set_other _ _ _ _ other
        exact (ih (s.fillSlot j (.good 0)) fun line early slots hg =>
          below line early slots (same.symm.trans hg)).trans same
      · rfl

/-- The entry that alone holds a line is the one found for it (R34). -/
theorem ReadAhead.entryFor_alone (ra : ReadAhead) (i : Fin 2) (line : Nat) (hl : (ra.get i).line? = some line)
    (alone : ∀ n, n ≠ i → (ra.get n).line? ≠ some line) : ra.entryFor line = ra.get i := by
  rw [ReadAhead.entryFor_eq]
  rcases (by omega : i = 0 ∨ i = 1) with rfl | rfl
  · exact if_pos hl
  · have other : ra.e0.line? ≠ some line := alone 0 (by decide)
    rw [if_neg other]
    exact if_pos hl

/-- A line that one entry alone holds is found in that entry after the fill with zero. -/
theorem State.zeroFill_entryFor (s : State) (n : Nat) (i : Fin 2) (line : Nat)
    (hl : (s.readAhead.get i).line? = some line) (alone : ∀ n, n ≠ i → (s.readAhead.get n).line? ≠ some line) :
    (s.zeroFill n).readAhead.entryFor line = (s.zeroFill n).readAhead.get i := by
  refine ReadAhead.entryFor_alone _ i line ?_ fun j hj => ?_
  · rw [State.zeroFill_line, hl]
  · rw [State.zeroFill_line]
    exact alone j hj

/-! ### The beat that waits -/

theorem State.waitOver_filling (s : State) (line l : Nat) (early : Bool) (slots : List RaSlot)
    (h : s.readAhead.entryFor line = .filling l early slots) : s.waitOver (.onLine line) = false := by
  simp only [State.waitOver, h]

theorem State.waitOver_valid (s : State) (line l : Nat) (early : Bool) (slots : List RaSlot)
    (h : s.readAhead.entryFor line = .valid l early slots) : s.waitOver (.onLine line) = true := by
  simp only [State.waitOver, h]

/-- A beat that does not wait for the line, or still waits for it, is not taken (R73). -/
theorem State.serveWaitingLine_none (s : State) (line : Nat)
    (h : (∀ req marks j, s.txn ≠ some ⟨req, marks, .read j (.onLine line)⟩) ∨ s.waitOver (.onLine line) = false) :
    s.serveWaitingLine line = s := by
  unfold State.serveWaitingLine
  split
  · rename_i req marks j l _ ht
    refine if_neg ?_
    rintro ⟨rfl, hw⟩
    rcases h with h | h
    · exact h req marks j ht
    · exact Bool.false_ne_true (h.symm.trans hw)
  · rfl

/-- A beat whose line is VALID is taken again within PREFETCH_READ (R73). -/
theorem State.serveWaitingLine_retaken (s : State) (line : Nat) (req : Request) (marks : Option (List Bool)) (j : Nat)
    (hp : s.port = .readActive) (ht : s.txn = some ⟨req, marks, .read j (.onLine line)⟩)
    (hw : s.waitOver (.onLine line) = true) :
    .next (s.serveWaitingLine line).settle = exec .readBeatRetaken s := by
  simp [State.serveWaitingLine, exec, execReadBeatRetaken, hp, ht, hw]

/-! ### The slot that is filled -/

/-- The next slot of a FILLING entry (R73). -/
theorem State.fillSlot_filling (s : State) (i : Fin 2) (line : Nat) (early : Bool) (slots : List RaSlot) (slot : RaSlot)
    (hg : s.readAhead.get i = .filling line early slots) : s.fillSlot i slot = { s with
      readAhead := s.readAhead.set i (if slots.length < 7 then .filling line early (slots ++ [slot])
        else .valid line early (slots ++ [slot])) } := by
  rw [State.fillSlot, hg, RaEntry.filled]

/-- A line whose next word after this one is still to be read keeps a beat waiting (R73). -/
theorem State.fillSlot_waits (s : State) (i : Fin 2) (line : Nat) (early : Bool) (slots : List RaSlot) (slot : RaSlot)
    (hg : s.readAhead.get i = .filling line early slots) (h7 : slots.length < 7)
    (below : s.unfilled (s.translate (8 * line + slots.length + 1)).1 = false)
    (alone : ∀ n, n ≠ i → (s.readAhead.get n).line? ≠ some line) :
    ((s.fillSlot i slot).zeroFill 16).waitOver (.onLine line) = false := by
  rw [s.fillSlot_filling i line early slots slot hg, if_pos h7]
  let t : State := { s with readAhead := s.readAhead.set i (.filling line early (slots ++ [slot])) }
  have next : t.readAhead.get i = .filling line early (slots ++ [slot]) := ReadAhead.get_set_same _ _ _
  have kept : (t.zeroFill 16).readAhead.get i = .filling line early (slots ++ [slot]) := by
    refine (t.zeroFill_kept i 16 fun l e x hx => ?_).trans next
    obtain ⟨rfl, rfl, rfl⟩ := RaEntry.filling.inj (next.symm.trans hx)
    rw [List.length_append, List.length_singleton, ← Nat.add_assoc]
    exact below
  refine State.waitOver_filling _ line line early (slots ++ [slot]) ?_
  refine (t.zeroFill_entryFor 16 i line (by rw [next]; rfl) fun n hn => ?_).trans kept
  rw [ReadAhead.get_set_other _ _ _ _ hn]
  exact alone n hn

/-- A VALID line stays as it is, and alone the beats find it (R34, R73). -/
theorem State.zeroFill_valid (s : State) (i : Fin 2) (line : Nat) (early : Bool) (slots : List RaSlot)
    (alone : ∀ n, n ≠ i → (s.readAhead.get n).line? ≠ some line) :
    let t : State := ({ s with readAhead := s.readAhead.set i (.valid line early slots) } : State).zeroFill 16
    t.readAhead.get i = .valid line early slots ∧ t.readAhead.entryFor line = .valid line early slots := by
  intro t
  let x : State := { s with readAhead := s.readAhead.set i (.valid line early slots) }
  have valid : x.readAhead.get i = .valid line early slots := ReadAhead.get_set_same _ _ _
  have kept : t.readAhead.get i = .valid line early slots := by
    refine (x.zeroFill_kept i 16 fun l e y hy => ?_).trans valid
    rw [valid] at hy
    cases hy
  refine ⟨kept, (x.zeroFill_entryFor 16 i line (by rw [valid]; rfl) fun n hn => ?_).trans kept⟩
  rw [ReadAhead.get_set_other _ _ _ _ hn]
  exact alone n hn

/-- A line that its last word, or this word and then zero words, complete is VALID (R73). -/
theorem State.fillSlot_completes (s : State) (i : Fin 2) (line : Nat) (early : Bool) (slots : List RaSlot)
    (slot : RaSlot) (hg : s.readAhead.get i = .filling line early slots)
    (alone : ∀ n, n ≠ i → (s.readAhead.get n).line? ≠ some line)
    (hw : slots.length = 7 ∨ slots.length < 7 ∧ s.readAhead.served = some i ∧
      ∀ m, slots.length < m → m < 8 → s.unfilled (s.translate (8 * line + m)).1 = true) :
    let full := slots ++ slot :: List.replicate (7 - slots.length) (.good 0)
    let t := (s.fillSlot i slot).zeroFill 16
    t.readAhead.get i = .valid line early full ∧ t.readAhead.entryFor line = .valid line early full ∧
      (s.fill.filling = false → t.readAhead = s.readAhead.set i (.valid line early full)) := by
  intro full t
  have completed : t = ({ s with readAhead := s.readAhead.set i (.valid line early full) } : State).zeroFill 16 := by
    simp only [t, s.fillSlot_filling i line early slots slot hg]
    rcases hw with h7 | ⟨h7, hs, hwords⟩
    · rw [if_neg (by omega), show full = slots ++ [slot] by simp [full, h7]]
    · rw [if_pos h7]
      have whole := State.zeroFill_whole { s with
        readAhead := s.readAhead.set i (.filling line early (slots ++ [slot])) } i line early (slots ++ [slot])
          (s.readAhead.served_set i line early slots _ hs hg) (ReadAhead.get_set_same _ _ _) (by simp; omega)
          fun k h1 h2 => hwords k (by simpa using h1) h2
      simp only [ReadAhead.set_set, List.length_append, List.length_singleton, List.append_assoc,
        List.singleton_append] at whole
      rw [whole, show 8 - (slots.length + 1) = 7 - slots.length by omega]
  obtain ⟨valid, found⟩ := s.zeroFill_valid i line early full alone
  rw [completed]
  refine ⟨valid, found, fun hf => ?_⟩
  rw [State.zeroFill_no_fill _ 16 (by exact hf)]

/-- A beat that waits for the line that this word completes is taken again within PREFETCH_READ (R73). -/
theorem State.keepPrefetched_retaken (s : State) (i : Fin 2) (line : Nat) (early : Bool) (slots : List RaSlot)
    (slot : RaSlot) (req : Request) (marks : Option (List Bool)) (j : Nat) (hp : s.port = .readActive)
    (ht : s.txn = some ⟨req, marks, .read j (.onLine line)⟩)
    (hv : ((s.fillSlot i slot).zeroFill 16).readAhead.entryFor line = .valid line early slots) :
    .next (s.keepPrefetched (some i) line slot).settle =
      exec .readBeatRetaken { s with readAhead := ((s.fillSlot i slot).zeroFill 16).readAhead } := by
  have only_buffer : (s.fillSlot i slot).zeroFill 16 =
      { s with readAhead := ((s.fillSlot i slot).zeroFill 16).readAhead } := State.zeroFill_with _ 16
  rw [← only_buffer]
  exact State.serveWaitingLine_retaken _ line req marks j (by rw [only_buffer]; exact hp)
    (by rw [only_buffer]; exact ht) (State.waitOver_valid _ line line early slots hv)

/-- The last beat of a burst that finds a GOOD word in its line is answered, and the burst ends (R34, R36). -/
theorem exec_readBeatRetaken_last (s : State) (req : Request) (marks : Option (List Bool)) (j line : Nat) (early : Bool)
    (slots : List RaSlot) (x : Word) (hp : s.port = .readActive)
    (ht : s.txn = some ⟨req, marks, .read j (.onLine line)⟩)
    (hj : j + 1 = req.count) (hm : markedInRange marks j = true) (hl : (req.address.toNat + j) / 8 = line)
    (hn : newestEntry s.queue (req.address.toNat + j) = none)
    (hv : s.readAhead.entryFor line = .valid line early slots)
    (hx : slots[(req.address.toNat + j) % 8]? = some (.good x)) :
    exec .readBeatRetaken s = .next ({ s with
      txn := none, port := .ready, upSent := s.upSent ++ [.beatOk x] } : State).settle := by
  have taken := s.takeBeat_good (req.address.toNat + j) line early slots x hn (hl ▸ hv) hx
  rw [exec_readBeatRetaken s req marks j _ hp ht (s.waitOver_valid line line early slots hv),
    State.serveBeats_data req marks false s j (by omega) hm x s taken, hj, Nat.sub_self, State.serveBeats,
    State.endTransaction_respond s s _ rfl]

/-- Settles O18: a grant whose entry is gone, then the word kept, with no beat taken, a beat taken again, and the last
beat of a burst. -/
theorem prefetchWordDecoded : Obligations.PrefetchWordDecoded := by
  refine ⟨fun s a loc k u hm hg => ?_, fun s i a loc k u line early slots hm hg ha hi => ?_⟩
  · intro d r
    have gone : exec (.prefetchRead u) s = .next (r.prefetchReport d a k false).settle :=
      exec_prefetchRead s none a loc k u hm hg
    refine ⟨holds_disturbed s loc u hm, fun h => ?_, fun h => ?_, fun kind h => ?_⟩
    · rw [gone, r.prefetchReport_clean _ _ _ _ h]
    · rw [gone, r.prefetchReport_corrected _ _ _ h]
    · rw [gone, r.prefetchReport_fails _ _ _ _ kind h]
  · subst ha
    intro d r next fills ends unfilled alone
    have kept : exec (.prefetchRead u) s = .next ((r.prefetchReport d a k false).keepPrefetched (some i) (a / 8)
        (slotOf d k)).settle := exec_prefetchRead s (some i) a loc k u hm hg
    have outcome (x : State) (slot : RaSlot) (h : ends x slot) :
        r.prefetchReport d a k false = x ∧ slotOf d k = slot :=
      (prefetch_outcome r _ a k x slot h).imp Eq.symm Eq.symm
    obtain ⟨hport, htxn, hra, hfill, hmap, hstraps⟩ := r.prefetchReport_frame d a k false
    generalize r.prefetchReport d a k false = x₀ at kept outcome hport htxn hra hfill hmap hstraps
    generalize slotOf d k = slot₀ at kept outcome
    have hi₀ : x₀.readAhead.get i = .filling (a / 8) early slots := hra ▸ hi
    have alone₀ (h : alone) : ∀ n, n ≠ i → (x₀.readAhead.get n).line? ≠ some (a / 8) := hra ▸ h
    have same_words (b : Nat) : x₀.unfilled (x₀.translate b).1 = s.unfilled (s.translate b).1 :=
      State.unfilled_congr s x₀ b hfill hmap hstraps
    have completed (hal : alone) := x₀.fillSlot_completes i (a / 8) early slots slot₀ hi₀ (alone₀ hal)
    refine ⟨holds_disturbed s loc u hm, ?_, fun x slot h hc => ?_, fun x slot req marks j h hp ht hal hw => ?_,
      fun req marks j x h7 hal hp ht hj hmark hl hn hc hx => ?_⟩
    · cases ho : d.outcome with
      | clean => exact ⟨_, _, .inl ⟨ho, rfl, rfl⟩⟩
      | corrected => exact ⟨_, _, .inr (.inl ⟨ho, rfl, rfl⟩)⟩
      | uncorrectable => exact ⟨_, _, .inr (.inr (.inl ⟨ho, rfl, rfl⟩))⟩
      | poisoned => exact ⟨_, _, .inr (.inr (.inr ⟨ho, rfl, rfl⟩))⟩
    · obtain ⟨rfl, rfl⟩ := outcome x slot h
      have filled : fills x₀ slot₀ = x₀.fillSlot i slot₀ := by
        rw [x₀.fillSlot_filling i _ early slots slot₀ hi₀, hra]
      rw [kept, filled, State.keepPrefetched, State.serveWaitingLine_none, State.settle_zeroFill]
      refine hc.imp (fun hno req marks j ht => hno req marks j ?_) fun ⟨h7, hu, hal⟩ => ?_
      · rw [← ht, State.zeroFill_with]
        exact htxn.symm
      · exact x₀.fillSlot_waits i _ early slots slot₀ hi₀ h7
          ((same_words _).trans ((s.unfilled_eq_false _).mpr hu)) (alone₀ hal)
    · obtain ⟨rfl, rfl⟩ := outcome x slot h
      obtain ⟨valid, found, same⟩ := completed hal <| hw.imp_right fun ⟨h7, hs, hwords⟩ =>
        ⟨h7, hra ▸ hs, fun m h1 h2 => (same_words _).trans ((s.unfilled_iff _).mpr (hwords m h1 h2))⟩
      refine ⟨_, ?_, valid, fun hf => ?_⟩
      · rw [kept]
        exact x₀.keepPrefetched_retaken i _ early _ slot₀ req marks j (hport.trans hp) (htxn.trans ht) found
      · exact (same ((congrArg Fill.filling hfill).trans hf)).trans (by rw [hra])
    · obtain ⟨rfl, rfl⟩ := outcome r (.good d.data) (.inl ⟨hc, rfl, rfl⟩)
      have completed := completed hal (.inl h7)
      rw [h7, Nat.sub_self, List.replicate_zero] at completed
      obtain ⟨valid, found, same⟩ := completed
      refine ⟨_, ?_, valid, same⟩
      rw [kept, r.keepPrefetched_retaken i _ early _ _ req marks j hp ht found]
      exact exec_readBeatRetaken_last { r with readAhead := _ } req marks j _ early _ x hp ht hj hmark hl hn found hx

end Sys2Proof.Machine
end

section
/-! Invariants that the traffic on the array keeps: what is closed under the few changes that reads, writes, detections
and grants make to the part is kept by every operation of the upstream port, the Read Path, the queue and the arbiter. -/

namespace Sys2Proof.Machine

/-! ### Outcomes -/

/-- Whatever state an outcome leaves meets `P`. -/
def Leaves (P : State → Prop) (o : Host.Outcome State Fault Refusal) : Prop := ∀ t, o = .next t → P t

namespace Leaves

variable {P : State → Prop}

theorem next {t : State} (h : P t) : Leaves P (.next t) := by
  rintro _ ⟨⟩
  exact h

/-- A command that acts under a condition alone. -/
theorem guarded {s t : State} {p : Prop} [Decidable p] (h : P s) (acts : p → P t) :
    Leaves P (if p then .next t else .next s) := by
  split
  · exact .next (acts ‹p›)
  · exact .next h

/-- A service command is carried out where the Command Unit has been handed it. -/
theorem served {s : State} (c : SvcCommand) {f : State → State} (h : P s) (acts : P (f s)) : Leaves P (s.serve c f) :=
  .guarded h fun _ => acts

end Leaves

/-! ### The changes that traffic makes -/

/-- `t` has the straps, the lock, the Spare Map, the engine, the scrub, the Fault Unit, the settings, the link, the
command in execution and the tick of `s`. -/
def TrafficApart (s t : State) : Prop :=
  t = { s with
    rstN := t.rstN, mem := t.mem, port := t.port, txn := t.txn, held := t.held, queue := t.queue,
    readAhead := t.readAhead, grant := t.grant, passOver := t.passOver, records := t.records, fill := t.fill,
    resetInProgress := t.resetInProgress, resetDue := t.resetDue, upSent := t.upSent, svcSent := t.svcSent,
    pending := t.pending }

/-- Each lock in `l` has no hold time, or starts with LOCK_LIMIT ticks, or goes on with the hold time of the lock in
`s` (R81, R84, R85). -/
def LockFollows (s : State) (l : Option Lock) : Prop :=
  ∀ k, l = some k → k.expiryDue = false ∧ (k.remaining = none ∨ k.remaining = some s.settings.lockLimit) ∨
    ∃ k₀, s.lock = some k₀ ∧ k.remaining = k₀.remaining ∧ k.expiryDue = k₀.expiryDue

namespace LockFollows

theorem none (s : State) : LockFollows s none := nofun

theorem same (s : State) : LockFollows s s.lock := fun k hk => .inr ⟨k, hk, rfl, rfl⟩

/-- A lock that a locked read makes (R81). -/
theorem made (s : State) (a : Nat) : LockFollows s (some (madeLock a s.settings.lockLimit)) := by
  rintro _ ⟨⟩
  exact .inl ⟨rfl, .inr rfl⟩

/-- A lock that a plain write may break (R84). -/
theorem broken (s : State) (a : Nat) : LockFollows s (brokenBy a s.lock) := by
  intro k hk
  obtain ⟨k₀, hs, rfl⟩ := Option.map_eq_some_iff.mp hk
  refine .inr ⟨k₀, hs, ?_⟩
  split <;> exact ⟨rfl, rfl⟩

/-- A lock whose hold timer a locked write stops (R85). -/
theorem stopped (s : State) : LockFollows s (timerStopped s.lock) := by
  intro k hk
  obtain ⟨k₀, _, rfl⟩ := Option.map_eq_some_iff.mp hk
  exact .inl ⟨rfl, .inl rfl⟩

end LockFollows

/-- What holds of the part whatever its traffic moves, follows the lock, and is kept by an occurrence and by the skip of
a word. -/
structure KeptByTraffic (P : State → Prop) : Prop where
  traffic : ∀ {s t}, P s → TrafficApart s t → P t
  lock    : ∀ {s l}, P s → LockFollows s l → P { s with lock := l }
  occur   : ∀ {s} src, P s → P (s.occur src)
  skip    : ∀ {s}, P s → P s.skipWord

namespace KeptByTraffic

variable {P : State → Prop} (k : KeptByTraffic P) {s : State} (h : P s)
include k h

theorem respond (y : UpResponse) : P (s.respond y) := k.traffic h rfl

theorem opened (loc : Nat) (u : Upset) : P (s.opened loc u) := k.traffic h rfl

/-! ### Offers, arrivals and reports -/

theorem occurOpt (src : Option FaultSource) : P (s.occurOpt src) := by
  cases src with
  | none => exact h
  | some src => exact k.occur src h

theorem offer (kind : EntryKind) (a : Nat) (d : Word) : P (s.offer kind a d) := by
  unfold State.offer
  split
  · exact k.traffic h rfl
  · exact h

theorem examine (a : Nat) : P (s.examine a) := by
  unfold State.examine
  split
  · exact h
  · split
    · split
      · exact k.traffic h rfl
      · exact k.occur _ h
    · exact h

theorem arrive (a : Arrival) : P (s.arrive a) := by
  unfold State.arrive
  split
  · exact k.occur _ h
  · rename_i rs _
    have placed : P { s with records := rs } := k.traffic h rfl
    exact k.examine placed a.address

theorem deliveryReport (a : Nat) (kind : Detected) (y : Option Syndrome) (loc : Location) (answer : Repair) :
    P (s.deliveryReport a kind y loc answer) := by
  unfold State.deliveryReport
  split
  · exact k.traffic h rfl
  · exact k.arrive h _

theorem deliverBad (a : Nat) (kind : Detected) (y : Option Syndrome) (loc : Location) :
    P (s.deliverBad a kind y loc) :=
  k.deliveryReport (k.offer (k.occur _ h) _ _ _) _ _ _ _ _

theorem foregroundReport (d : Decoded) (a : Nat) (loc : Location) (locked orphan : Bool) :
    P (s.foregroundReport d a loc locked orphan) := by
  unfold State.foregroundReport
  split
  · exact h
  · refine k.occur _ (k.arrive ?_ _)
    split
    · exact k.offer h _ _ _
    · exact h

theorem prefetchReport (d : Decoded) (a : Nat) (loc : Location) (orphan : Bool) :
    P (s.prefetchReport d a loc orphan) := by
  unfold State.prefetchReport
  split
  · exact h
  · refine k.occur _ (k.arrive ?_ _)
    split
    · exact h
    · exact k.offer h _ _ _
  · exact k.arrive h _

theorem directReport (d : Decoded) (a : Nat) (loc : Location) (source : Source) (repair : Detected → Repair)
    (fault : Detected → FaultSource) : P (s.directReport d a loc source repair fault) := by
  unfold State.directReport
  split
  · exact h
  · exact k.occur _ (k.arrive h _)

theorem mergeReport (d : Option Decoded) (a : Nat) (loc : Location) : P (s.mergeReport d a loc) := by
  cases d with
  | none => exact h
  | some d => exact k.directReport h d a loc _ _ _

theorem scrubReport (d : Decoded) (a : Nat) (loc : Location) : P (s.scrubReport d a loc) := by
  unfold State.scrubReport
  split
  · exact k.arrive h _
  all_goals exact k.directReport h _ _ _ _ _ _

/-! ### Reads -/

theorem touched (fresh : Bool) (req : Request) (i : Nat) : P (s.touched fresh req i) := by
  unfold State.touched
  split
  · obtain ⟨ra, g, he, _⟩ := s.touchLine_eq (req.beatAddress i)
    rw [he]
    exact k.traffic h rfl
  · exact h

theorem takeBeat (a : Nat) : P (s.takeBeat a).2 := by
  unfold State.takeBeat
  split
  · split
    · exact k.occur _ h
    · split <;> exact h
  · split
    · split
      · exact h
      · exact k.deliverBad h _ _ _ _
      · exact h
    all_goals exact h

omit h in
theorem serveBeats (req : Request) (marks : Option (List Bool)) (n : Nat) : ∀ {s : State}, P s →
    ∀ fresh, P (State.serveBeats req marks n fresh s) := by
  induction n with
  | zero => exact fun h _ => k.traffic h rfl
  | succ n ih =>
    intro s h fresh
    have taken := k.takeBeat (k.touched h fresh req (req.count - (n + 1))) (req.beatAddress (req.count - (n + 1)))
    rw [State.serveBeats]
    dsimp only
    split
    · unfold State.touched at taken
      split
      all_goals
        rename_i u hu
        rw [hu] at taken
      · exact ih (k.respond taken _) true
      · exact k.traffic taken rfl
      · exact k.traffic taken rfl
    · exact ih (k.respond h _) true

theorem retakeBeat : P s.retakeBeat := by
  unfold State.retakeBeat
  split
  · exact k.serveBeats _ _ _ h _
  · exact h

theorem answerBeat (d : Decoded) : P (s.answerBeat d) := by
  unfold State.answerBeat
  split
  · split
    · exact k.serveBeats _ _ _ (k.respond h _) _
    · exact k.serveBeats _ _ _ (k.respond h _) _
    all_goals exact k.traffic h rfl
  · exact h

/-- A locked read that is answered OK makes a lock (R81). -/
theorem answerLocked (d : Decoded) (a : Nat) : P (s.answerLocked d a) := by
  have made := k.lock h (.made s a)
  unfold State.answerLocked
  split
  · exact k.traffic made rfl
  · exact k.traffic made rfl
  all_goals exact k.traffic h rfl

/-! ### Writes -/

/-- A plain beat can break the lock (R84). -/
theorem insertBeat (locked through : Bool) (a : Nat) (b : Beat) : P (s.insertBeat locked through a b) := by
  have follows : LockFollows s (if locked then s.lock else brokenBy a s.lock) := by
    split
    · exact .same s
    · exact .broken s a
  refine k.occurOpt ?_ _
  exact k.traffic (k.lock h follows) rfl

omit h in
theorem insertBeats (locked through : Bool) (beats : List (Nat × Beat)) : ∀ {s : State}, P s →
    P (s.insertBeats locked through beats).state := by
  induction beats with
  | nil => exact id
  | cons x rest ih => exact fun h => ih (k.insertBeat h locked through x.1 x.2)

theorem insertWrite (req : Request) (marks : Option (List Bool)) (posting : PostingMode) :
    P (s.insertWrite req marks posting) := by
  have inserted := k.insertBeats req.locked (decide (posting = .through)) (queuedBeats req marks) h
  unfold State.insertWrite
  cases posting <;> exact k.traffic inserted rfl

/-- A locked write stops the hold timer, and ends the lock where it queues no beat (R30, R85). -/
theorem takeWrite (req : Request) : P (s.takeWrite req) := by
  have follows : LockFollows s (if req.locked then timerStopped s.lock else s.lock) := by
    split
    · exact .stopped s
    · exact .same s
  have stopped := k.lock h follows
  unfold State.takeWrite
  extract_lets t need
  have ended : LockFollows t (if req.locked then none else t.lock) := by
    split
    · exact .none t
    · exact .same t
  split
  · exact k.traffic (k.lock stopped ended) rfl
  · split
    · exact k.insertWrite stopped _ _ _
    · exact k.traffic stopped rfl

theorem complete (req : Request) (failed : Bool) : P (s.complete req failed) := by
  have ended : LockFollows s (if req.locked then none else s.lock) := by
    split
    · exact .none s
    · exact .same s
  exact k.traffic (k.lock h ended) rfl

/-! ### Presentation -/

theorem take (req : Request) : P (s.take req) := by
  unfold State.take
  split
  · exact k.serveBeats _ _ _ h _
  · unfold State.takeLockedRead
    split <;> exact k.traffic h rfl
  · exact k.takeWrite h req

/-- A refusal can end a BROKEN lock (R24). -/
theorem refuse (req : Request) (fault : Option FaultSource) (ends : Bool) : P (s.refuse req fault ends) := by
  have ended : LockFollows s (if ends then none else s.lock) := by
    split
    · exact .none s
    · exact .same s
  exact k.occurOpt (k.respond (k.lock h ended) _) fault

theorem check (req : Request) : P (s.check req) := by
  unfold State.check
  split
  · exact k.refuse h _ _ _
  · exact k.take h req

/-! ### The end of an event -/

theorem arbitrate : P s.arbitrate :=
  State.arbitrate_induction (fun s t => P s → P t) s (fun _ => id) (fun _ _ _ _ hs => k.traffic hs rfl)
    (fun _ _ _ _ _ next hs => next (k.skip hs)) h

theorem zeroFill (n : Nat) : P (s.zeroFill n) := by
  obtain ⟨ra, he⟩ := State.zeroFill_eq n s
  rw [he]
  exact k.traffic h rfl

theorem settle : P s.settle := k.arbitrate (k.zeroFill h 16)

theorem settled : Leaves P (.next s.settle) := .next (k.settle h)

theorem present (req : Request) : P (s.present req) := by
  have offered : P { s with held := none } := k.traffic h rfl
  unfold State.present
  split
  · split
    · exact k.settle (k.check offered req)
    · exact k.traffic h rfl
  · exact h

/-! ### Prefetched words -/

theorem serveWaitingLine (line : Nat) : P (s.serveWaitingLine line) := by
  unfold State.serveWaitingLine
  split
  · split
    · exact k.retakeBeat h
    · exact h
  · exact h

theorem keepPrefetched (entry : Option (Fin 2)) (line : Nat) (slot : RaSlot) :
    P (s.keepPrefetched entry line slot) := by
  cases entry with
  | none => exact h
  | some i =>
    have filled : P (s.fillSlot i slot) := k.traffic h rfl
    exact k.serveWaitingLine (k.zeroFill filled 16) line

/-! ### Commands of the upstream port -/

theorem execWriteInsertion : Leaves P (execWriteInsertion s) := by
  unfold Machine.execWriteInsertion
  split
  · exact .guarded h fun _ => k.settle (k.insertWrite h _ _ _)
  · exact .next h

theorem execWriteCompletion : Leaves P (execWriteCompletion s) := by
  unfold Machine.execWriteCompletion
  split
  · exact k.settled (k.complete h _ _)
  · exact .next h

theorem execReadBeatRetaken : Leaves P (execReadBeatRetaken s) := by
  unfold Machine.execReadBeatRetaken
  split
  · exact .guarded h fun _ => k.settle (k.retakeBeat h)
  · exact .next h

/-! ### The ends of the array operations -/

theorem execForegroundRead (u : Upset) : Leaves P (execForegroundRead u s) := by
  unfold Machine.execForegroundRead
  split
  · rename_i a loc location orphan _
    extract_lets t d r
    have reported : P r := k.foregroundReport (k.opened h _ _) _ _ _ _ _
    refine k.settled ?_
    split
    · exact reported
    · exact k.answerBeat reported _
  · exact .next h

theorem execLockedReadDecode (u : Upset) : Leaves P (execLockedReadDecode u s) := by
  unfold Machine.execLockedReadDecode
  split
  · rename_i a loc location orphan _
    extract_lets t d r
    have reported : P r := k.foregroundReport (k.opened h _ _) _ _ _ _ _
    refine k.settled ?_
    split
    · exact reported
    · exact k.answerLocked reported _ _
  · exact .next h

theorem execDrainEnd (u : Upset) : Leaves P (execDrainEnd u s) := by
  unfold Machine.execDrainEnd
  split
  · rename_i loc location dual orphan e rest _ _
    extract_lets t w r
    have stored : P ((t.store loc (drainWord e w)).storeDual dual (drainWord e w)) := k.traffic h rfl
    have left : P (r.headDone rest (e.waiter && drainFailed e w)) := k.traffic (k.mergeReport stored _ _ _) rfl
    exact k.settled left
  · exact .next h

theorem execPrefetchRead (u : Upset) : Leaves P (execPrefetchRead u s) := by
  unfold Machine.execPrefetchRead
  split
  · exact k.settled (k.keepPrefetched (k.prefetchReport (k.opened h _ _) _ _ _ _) _ _ _)
  · exact .next h

theorem execFillWrite : Leaves P (execFillWrite s) := by
  unfold Machine.execFillWrite
  split
  · refine k.settled ?_
    exact k.traffic h rfl
  · exact .next h

/-! ### The fill and the line RST_N -/

theorem execRstNRises : Leaves P (execRstNRises s) := by
  unfold Machine.execRstNRises
  split
  · exact .next h
  · exact .next (k.traffic h rfl)

theorem execResetCompletes : Leaves P (execResetCompletes s) := .guarded h fun _ => k.settle (k.traffic h rfl)

theorem execFillBegins : Leaves P (execFillBegins s) := .guarded h fun _ => k.settle (k.traffic h rfl)

end KeptByTraffic
end Sys2Proof.Machine
end

section
/-! The ranges of the settings, the lock and the scrub record (R78, R138, R139, R182): what each operation on them alone
does to its range. -/

namespace Sys2Proof.Machine

/-! ### Straps and settings -/

/-- There is a visible line, whatever the straps (R2). -/
theorem visibleLines_pos (c : Straps) : 0 < c.visibleLines := by
  have large : 2 ^ 16 ≤ c.populated := Nat.pow_le_pow_right (by decide) (Nat.le_add_right ..)
  unfold Straps.visibleLines Straps.visible
  omega

/-- The reset values lie in the ranges (R182). -/
theorem settingsOk_initial (c : Straps) : SettingsOk (.initial c) c.visibleLines := by
  have := visibleLines_pos c
  simp only [SettingsOk, Settings.initial]
  omega

theorem within_iff (lo hi v : Nat) : within lo hi v = true ↔ lo ≤ v ∧ v ≤ hi := by
  simp [within]

/-- A value in its item's range keeps all the settings in theirs, but that the scrub region may be left empty (R182). -/
theorem settingsOk_put {st st' : Settings} {lines : Nat} {item : Byte} {v : Nat} (h : SettingsOk st lines)
    (hput : st.put lines item v = some st') (region : st'.scrubStartLine ≤ st'.scrubEndLine) :
    SettingsOk st' lines := by
  unfold Settings.put at hput
  split at hput
  case h_18 =>
    split at hput
    · obtain rfl := Option.some.inj hput
      exact h
    · cases hput
  all_goals
    obtain ⟨hv, hst⟩ := Option.ite_none_right_eq_some.mp hput
    obtain rfl := Option.some.inj hst
    rw [within_iff] at hv
    simp only [SettingsOk] at h region ⊢
    omega

/-- An item outside the scrub region leaves it as it is (R138). -/
theorem region_put {st st' : Settings} {lines : Nat} {item : Byte} {v : Nat} (hi : isRegionItem item = false)
    (hput : st.put lines item v = some st') :
    st'.scrubStartLine = st.scrubStartLine ∧ st'.scrubEndLine = st.scrubEndLine := by
  unfold Settings.put at hput
  split at hput
  case h_10 | h_11 =>
    rename_i hitem
    simp [isRegionItem, within, hitem] at hi
  case h_18 =>
    split at hput
    · obtain rfl := Option.some.inj hput
      exact ⟨rfl, rfl⟩
    · cases hput
  all_goals
    obtain ⟨_, hst⟩ := Option.ite_none_right_eq_some.mp hput
    obtain rfl := Option.some.inj hst
    exact ⟨rfl, rfl⟩

/-- SET_SETTING keeps the settings in their ranges, and the scrub region with a line in it (R138, R182). -/
theorem State.putSetting_ok (s : State) (item : Byte) (value : Word)
    (h : SettingsOk s.settings s.straps.visibleLines) :
    SettingsOk (s.putSetting item value).2 s.straps.visibleLines := by
  have ⟨_, _, ⟨region, _⟩, _⟩ := h
  unfold State.putSetting
  split
  · exact h
  · rename_i st hput
    split
    · exact h
    · split
      · exact h
      · rename_i hr
        refine settingsOk_put h hput ?_
        cases hi : isRegionItem item with
        | true => simpa [hi] using hr
        | false =>
          obtain ⟨hs, he⟩ := region_put hi hput
          rw [hs, he]
          exact region

/-! ### The lock -/

/-- A tick takes one of a hold time above 1, and makes the expiry due at 1 (R82). -/
theorem lockOk_ticked {l : Lock} (h : LockOk l) : LockOk l.ticked := by
  obtain ⟨range, due⟩ := h
  unfold Lock.ticked
  split
  · exact ⟨range, due⟩
  · rename_i n hn
    obtain ⟨_, _⟩ := range n hn
    split
    · obtain rfl : n = 1 := by omega
      exact ⟨range, fun _ => hn⟩
    · refine ⟨?_, fun hd => ?_⟩
      · rintro _ ⟨⟩
        omega
      · obtain rfl : n = 1 := Option.some.inj (hn.symm.trans (due hd))
        contradiction

/-! ### The phase of a run -/

theorem ScrubPhase.ok_sweeping (n : Nat) : (ScrubPhase.sweeping n).ok = true ↔ 1 ≤ n ∧ n ≤ 256 := by
  simp [ScrubPhase.ok]

theorem ScrubPhase.ok_waiting (n : Nat) (due : Bool) :
    (ScrubPhase.waiting n due).ok = true ↔ (1 ≤ n ∧ n ≤ 65536) ∧ (due = true → n = 1) := by
  cases due <;> simp [ScrubPhase.ok]

/-- A pause keeps what is left of a phase (R146). -/
theorem ScrubPhase.ok_rested {p : ScrubPhase} (h : p.ok = true) : p.rested.ok = true := by
  cases p with
  | sweeping n => exact h
  | waiting n due =>
    obtain ⟨range, _⟩ := (ok_waiting n due).mp h
    exact (ok_waiting n false).mpr ⟨range, nofun⟩

/-! ### The scrub record -/

/-- The interval the pacer computes, and the accumulator it leaves (R143). -/
theorem carry_range (base fraction acc : Nat) (hf : fraction ≤ 7) (ha : acc ≤ 7) :
    base ≤ (carry base fraction acc).1 ∧ (carry base fraction acc).1 ≤ base + 1 ∧
      (carry base fraction acc).2 ≤ 7 := by
  unfold carry
  split <;> omega

section
variable {sc : Scrub} {lines : Nat} (h : ScrubOk sc lines)
include h

/-- Another run of the same record. -/
theorem scrubOk_run {r : ScrubRun} (hr : r.ok = true) : ScrubOk { sc with run := r } lines := by
  obtain ⟨_, rest⟩ := h
  exact ⟨hr, rest⟩

theorem scrubOk_pause : ScrubOk sc.pause lines := by
  have ⟨run, _⟩ := h
  unfold Scrub.pause
  split
  · rename_i mode p hr
    rw [hr] at run
    exact scrubOk_run h (ScrubPhase.ok_rested run)
  · exact h

theorem scrubOk_resume : ScrubOk sc.resume lines := by
  have ⟨run, _⟩ := h
  unfold Scrub.resume
  split
  · rename_i mode p hr
    rw [hr] at run
    exact scrubOk_run h run
  · exact h

theorem scrubOk_stop : ScrubOk sc.stop lines := scrubOk_run h rfl

/-- The expiry of the interval begins a block (R144). -/
theorem scrubOk_expired {block : Nat} (hb : 1 ≤ block ∧ block ≤ 256) : ScrubOk (sc.expired block) lines := by
  unfold Scrub.expired
  split
  · exact scrubOk_run h ((ScrubPhase.ok_sweeping block).mpr hb)
  · exact h

/-- A tick takes one of an interval above 1, and makes the expiry due at 1 (R144). -/
theorem scrubOk_ticked : ScrubOk sc.ticked lines := by
  have ⟨run, _⟩ := h
  unfold Scrub.ticked
  split
  · rename_i mode n due hr
    rw [hr] at run
    obtain ⟨range, last⟩ := (ScrubPhase.ok_waiting n due).mp run
    refine scrubOk_run h ?_
    show ScrubPhase.ok _ = true
    split
    · exact (ScrubPhase.ok_waiting n true).mpr ⟨range, fun _ => by omega⟩
    · exact (ScrubPhase.ok_waiting (n - 1) due).mpr ⟨by omega, fun hd => by have := last hd; omega⟩
  · exact h

variable {st : Settings} (hst : SettingsOk st lines)
include hst

/-- A block or pass end begins an interval (R143). -/
theorem scrubOk_rest (mode : ScrubMode) : ScrubOk (sc.rest mode st) lines := by
  obtain ⟨_, line, word, acc, skipped⟩ := h
  obtain ⟨_, _, _, _, base, fraction, _⟩ := hst
  obtain ⟨low, high, acc'⟩ := carry_range st.pacerBase st.pacerFraction sc.accumulator fraction acc
  exact ⟨(ScrubPhase.ok_waiting _ false).mpr ⟨by omega, nofun⟩, line, word, acc', skipped⟩

/-- The cursors go on in the region, or one line beyond it while there is one (R142). -/
theorem scrubOk_lineDone (mode : ScrubMode) (left : Nat) (hl : left ≤ 255) :
    ScrubOk (sc.lineDone mode left st lines) lines := by
  have ⟨run, line, _, acc, skipped⟩ := h
  have ⟨_, _, ⟨_, _⟩, _⟩ := hst
  unfold Scrub.lineDone
  split
  · have next : sc.line + 1 < lines := by omega
    split
    · exact scrubOk_rest (sc := { sc with word := 0, line := sc.line + 1 }) ⟨run, next, Nat.zero_le _, acc, skipped⟩
        hst mode
    · exact ⟨(ScrubPhase.ok_sweeping left).mpr (by omega), next, Nat.zero_le _, acc, skipped⟩
  · cases mode with
    | single =>
      refine ⟨rfl, ?_, Nat.zero_le _, acc, skipped⟩
      show singleEnd sc.line lines < lines
      unfold singleEnd
      split <;> assumption
    | continuous =>
      have start : st.scrubStartLine < lines := by omega
      exact scrubOk_rest
        (sc := { sc with word := 0, line := st.scrubStartLine, passes := sc.passes + 1, skipped := 0 })
        ⟨run, start, Nat.zero_le _, acc, Nat.zero_le _⟩ hst .continuous

theorem scrubOk_advance : ScrubOk (sc.advance st lines) lines := by
  have ⟨run, line, word, acc, skipped⟩ := h
  unfold Scrub.advance
  split
  · rename_i mode left hr
    split
    · exact ⟨run, line, by assumption, acc, skipped⟩
    · rw [hr] at run
      obtain ⟨_, _⟩ := (ScrubPhase.ok_sweeping left).mp run
      exact scrubOk_lineDone h hst mode (left - 1) (by omega)
  · exact h

/-- A skipped word is counted up to the end of the count's range (R141). -/
theorem scrubOk_skip :
    ScrubOk ({ sc with skipped := min (sc.skipped + 1) 65535 }.advance st lines) lines := by
  obtain ⟨run, line, word, acc, _⟩ := h
  exact scrubOk_advance (sc := { sc with skipped := min (sc.skipped + 1) 65535 })
    ⟨run, line, word, acc, Nat.min_le_right _ _⟩ hst

omit h in
/-- A run begins at the region's first line (R140). -/
theorem scrubOk_start {r : ScrubRun} (hr : r.ok = true) :
    ScrubOk { sc with run := r, line := st.scrubStartLine, word := 0, accumulator := 0, skipped := 0 } lines := by
  obtain ⟨_, _, ⟨_, _⟩, _⟩ := hst
  have start : st.scrubStartLine < lines := by omega
  exact ⟨hr, start, Nat.zero_le _, Nat.zero_le _, Nat.zero_le _⟩

end

end Sys2Proof.Machine
end

section
/-! The settings, the tick, the lock and the scrub record stay in their ranges (R78, R138, R139, R182): the shared
operations. -/

namespace Sys2Proof.Machine

namespace TimersOk

/-- The ranges look at the settings, the straps, the tick, the lock and the scrub record alone. -/
theorem congr {s t : State} (h : TimersOk s) (settings : t.settings = s.settings) (straps : t.straps = s.straps)
    (tick : t.tickLength = s.tickLength) (lock : t.lock = s.lock) (scrub : t.scrub = s.scrub) : TimersOk t := by
  unfold TimersOk
  rw [settings, straps, tick, lock, scrub]
  exact h

variable {s : State} (h : TimersOk s)
include h

/-- Another lock in its range (R78). -/
theorem relocked {l : Option Lock} (hl : ∀ k, l = some k → LockOk k) : TimersOk { s with lock := l } := by
  obtain ⟨settings, tick, _, scrub⟩ := h
  exact ⟨settings, tick, hl, scrub⟩

/-- Another scrub record in its range (R139). -/
theorem rescrubbed {sc : Scrub} (hs : ScrubOk sc s.straps.visibleLines) : TimersOk { s with scrub := sc } := by
  obtain ⟨settings, tick, lock, _⟩ := h
  exact ⟨settings, tick, lock, hs⟩

/-- HALTED may pause the scrub (R146). -/
theorem paused : TimersOk s.pauseIfHalted := by
  have ⟨_, _, _, scrub⟩ := h
  refine h.rescrubbed ?_
  split
  · exact scrubOk_pause scrub
  · exact scrub

theorem occur (src : FaultSource) : TimersOk (s.occur src) := by
  refine paused ?_
  exact h

/-- A skipped word (R141). -/
theorem skipWord : TimersOk s.skipWord := by
  have ⟨settings, _, _, scrub⟩ := h
  have skipped := h.rescrubbed (scrubOk_skip scrub settings)
  exact skipped

/-- A lock that a locked read makes begins with LOCK_LIMIT ticks, and one whose hold time is absent has none that could
expire (R81, R85). -/
theorem lockOk_of_follows {l : Option Lock} (hl : LockFollows s l) : ∀ k, l = some k → LockOk k := by
  obtain ⟨⟨limit, _⟩, _, lock, _⟩ := h
  intro k hk
  rcases hl k hk with ⟨hd, hn | hn⟩ | ⟨k₀, hk₀, hn, hd⟩
  · exact ⟨by simp [hn], by simp [hd]⟩
  · refine ⟨fun n h => ?_, by simp [hd]⟩
    obtain rfl : s.settings.lockLimit = n := Option.some.inj (hn.symm.trans h)
    exact limit
  · have ok := lock k₀ hk₀
    unfold LockOk
    rw [hn, hd]
    exact ok

omit h in
theorem keptByTraffic : KeptByTraffic TimersOk where
  traffic {s t} h ht := by
    rw [ht]
    exact h
  lock h hl := h.relocked (h.lockOk_of_follows hl)
  occur src h := h.occur src
  skip h := h.skipWord

theorem settle : TimersOk s.settle := keptByTraffic.settle h

theorem settled : Leaves TimersOk (.next s.settle) := .next h.settle

/-! ### The migration -/

theorem releaseLines (n : Nat) : TimersOk (State.releaseLines n s) := by
  induction n generalizing s with
  | zero => exact h
  | succ n ih =>
    unfold State.releaseLines
    split
    · exact h
    · rename_i line _
      have reopened : TimersOk { s with records := reopenRecords line s.records } := h
      exact ih (reopened.occur _)

/-- A copy that restarts, or is abandoned (R122, R123). -/
theorem verifyFailed (n : Fin 8) (line : Nat) (origin : Origin) (previous : Option (Fin 8)) :
    TimersOk (s.verifyFailed n line origin previous) := by
  unfold State.verifyFailed
  dsimp only
  split
  · refine occur ?_ _
    exact h
  · refine occur (occur ?_ _) _
    exact h

theorem endVerify (n : Fin 8) (equal : Bool) : TimersOk (s.endVerify n equal) := by
  unfold State.endVerify
  split
  · split
    · unfold State.verified
      split <;> exact h
    · exact h.verifyFailed _ _ _ _
  · exact h

theorem endOrphanVerify (n : Fin 8) (equal : Bool) : TimersOk (s.endOrphanVerify n equal) := by
  unfold State.endOrphanVerify
  split
  · exact h
  · refine occur ?_ _
    exact h

/-! ### The link and the command in execution -/

theorem finish (st : Status) (payload : List Byte) : TimersOk (s.finish st payload) :=
  h.congr (by simp) (by simp) (by simp) (by simp) (by simp)

theorem resumeFrame : TimersOk s.resumeFrame := h.congr (by simp) (by simp) (by simp) (by simp) (by simp)

theorem endResponse (characters : List Byte) (resetPart : Bool) : TimersOk (s.endResponse characters resetPart) :=
  h.congr rfl rfl rfl rfl rfl

theorem breakParser (sent : Nat) : TimersOk (s.breakParser sent) := by
  unfold State.breakParser
  split
  · exact h
  · exact h
  · exact h
  · exact h.endResponse _ _

/-! ### The scrub -/

theorem stopped : TimersOk { s with scrub := s.scrub.stop } := by
  have ⟨_, _, _, scrub⟩ := h
  exact h.rescrubbed (scrubOk_stop scrub)

theorem advanceScrub : TimersOk s.advanceScrub := by
  have ⟨settings, _, _, scrub⟩ := h
  exact h.rescrubbed (scrubOk_advance scrub settings)

/-- A waiting SCRUB_STOP stops the scrub, and HALTED pauses it (R145, R146). -/
theorem endScrubGrant : TimersOk s.endScrubGrant := by
  unfold State.endScrubGrant
  split
  · exact h.stopped.finish _ _
  · exact h.paused

/-- A run that starts has SCRUB_BLOCK lines left (R140). -/
theorem startScrub (mode : ScrubMode) : TimersOk (s.startScrub mode) := by
  have ⟨settings, _, _, scrub⟩ := h
  have ⟨_, _, _, block, _⟩ := settings
  refine h.rescrubbed (scrubOk_start (st := s.settings) settings ?_)
  split <;> exact (ScrubPhase.ok_sweeping _).mpr block

theorem releaseMode : TimersOk s.releaseMode := by
  have ⟨_, _, _, scrub⟩ := h
  have resumed : ScrubOk (if s.faults.release.mode = .halted then s.scrub else s.scrub.resume)
      s.straps.visibleLines := by
    split
    · exact scrub
    · exact scrubOk_resume scrub
  exact h.rescrubbed resumed

/-! ### The tick and the expiries -/

/-- The lock ends (R83). -/
theorem expireLock : TimersOk s.expireLock := (h.relocked (l := none) nofun).occur .lockFault

/-- A block begins with SCRUB_BLOCK lines left (R144). -/
theorem expireInterval : TimersOk s.expireInterval := by
  have ⟨⟨_, _, _, block, _⟩, _, _, scrub⟩ := h
  exact h.rescrubbed (scrubOk_expired scrub block)

theorem takeExpiries : TimersOk s.takeExpiries := by
  unfold State.takeExpiries
  refine expireInterval ?_
  split
  · exact h.expireLock
  · exact h

/-- The next tick has TICK_DIVISOR, which is in the range of a tick (R147). -/
theorem ticked : TimersOk { s with
    lock := s.lock.map Lock.ticked, scrub := s.scrub.ticked, tickLength := s.settings.tickDivisor } := by
  obtain ⟨settings, _, lock, scrub⟩ := h
  have ⟨_, _, _, _, _, _, divisor, _⟩ := settings
  refine ⟨settings, divisor, fun k hk => ?_, scrubOk_ticked scrub⟩
  obtain ⟨k₀, hk₀, rfl⟩ := Option.map_eq_some_iff.mp hk
  exact lockOk_ticked (lock k₀ hk₀)

/-! ### Settings, the system reset and power-on -/

/-- SET_SETTING (R182). -/
theorem configured (item : Byte) (value : Word) :
    TimersOk { s with settings := (s.putSetting item value).2 } := by
  obtain ⟨settings, rest⟩ := h
  exact ⟨s.putSetting_ok item value settings, rest⟩

/-- A change of a reaction can halt the part (R146, R154). -/
theorem react (source : FaultSource) (r : Reaction) : TimersOk (s.react source r) := by
  refine paused ?_
  exact h

/-- A system reset ends the lock and stops the scrub (R90, R148). -/
theorem systemReset : TimersOk s.systemReset := by
  have ended := h.stopped.relocked (l := none) nofun
  exact ended

omit h in
/-- At power-on the settings have their reset values, there is no lock, and the scrub is STOPPED (R90, R139, R182). -/
theorem poweredOn (s : State) (straps : Straps) (level : Bool) : TimersOk (s.poweredOn straps level) := by
  have tick : 1 ≤ 32 ∧ 32 ≤ 255 := by decide
  have cursors : 0 ≤ 7 ∧ 0 ≤ 7 ∧ 0 ≤ 65535 := by decide
  exact ⟨settingsOk_initial straps, tick, nofun, rfl, visibleLines_pos straps, cursors⟩

end TimersOk
end Sys2Proof.Machine
end

section
/-! Every command keeps the settings, the tick, the lock and the scrub record in their ranges (R78, R138, R139, R182).
-/

namespace Sys2Proof.Machine

section
variable {s : State} (h : TimersOk s)
include h

/-! ### The system reset -/

theorem execSystemReset_timers (cause : ResetCause) : Leaves TimersOk (execSystemReset cause s) := by
  have fallen : TimersOk { s.systemReset with rstN := false } := h.systemReset
  have taken : TimersOk { s.systemReset with resetDue := false } := h.systemReset
  cases cause with
  | rstnFalls => exact .guarded h fun _ => fallen.settle
  | resetPart => exact .guarded h fun _ => taken.settle

/-! ### The migration -/

theorem execMigrationStart_timers : Leaves TimersOk (execMigrationStart s) := by
  have started (line : Nat) (origin : Origin) (n : Fin 8) : TimersOk (s.startMigration line origin n) := h
  unfold execMigrationStart
  split
  · split
    · exact .next h
    · split
      · exact (started _ _ _).settled
      · exact (h.releaseLines _).settled
  · exact .next h

theorem execMigrationRead_timers (u : Upset) : Leaves TimersOk (execMigrationRead u s) := by
  unfold execMigrationRead
  split
  · rename_i a loc location orphan _
    extract_lets t w r
    have opened : TimersOk t := h
    have reported : TimersOk r := TimersOk.keptByTraffic.directReport opened _ _ _ _ _ _
    refine TimersOk.settled ?_
    split <;> exact reported
  · exact .next h

theorem execMigrationWrite_timers : Leaves TimersOk (execMigrationWrite s) := by
  unfold execMigrationWrite
  split
  · refine TimersOk.settled ?_
    split <;> exact h
  · exact .next h

theorem execMigrationVerify_timers (u : Upset) : Leaves TimersOk (execMigrationVerify u s) := by
  unfold execMigrationVerify
  split
  · rename_i n loc w orphan _
    have opened : TimersOk (s.opened loc u) := h
    refine TimersOk.settled ?_
    split
    · exact opened.endOrphanVerify n _
    · exact opened.endVerify n _
  · exact .next h

/-! ### The scrub, the tick and the expiries -/

theorem execScrubWord_timers (u : Upset) : Leaves TimersOk (execScrubWord u s) := by
  unfold execScrubWord
  split
  · rename_i a loc location orphan _
    extract_lets m w t
    have stored : TimersOk { s with mem := if scrubbedWord w = w then m else m.write loc (scrubbedWord w) } := h
    have reported : TimersOk t := TimersOk.keptByTraffic.scrubReport stored _ _ _
    have advanced : TimersOk (if orphan then t else t.advanceScrub) := by
      split
      · exact reported
      · exact reported.advanceScrub
    have ended : TimersOk { (if orphan then t else t.advanceScrub) with grant := none } := advanced
    exact ended.endScrubGrant.settled
  · exact .next h

theorem execTick_timers : Leaves TimersOk (execTick s) := h.takeExpiries.ticked.settled

theorem execLockHoldExpiry_timers : Leaves TimersOk (execLockHoldExpiry s) := .guarded h fun _ => h.expireLock.settle

theorem execScrubIntervalExpiry_timers : Leaves TimersOk (execScrubIntervalExpiry s) :=
  .guarded h fun _ => h.expireInterval.settle

/-! ### The link -/

/-- What the link does by itself moves no range. -/
theorem TimersOk.linked (l : Link) : TimersOk { s with link := l } := h

theorem execCharacterReceived_timers (samples : BitVec 30) : Leaves TimersOk (execCharacterReceived samples s) := by
  unfold execCharacterReceived
  split <;> exact .next h

theorem execBreakReceived_timers (sent : Nat) : Leaves TimersOk (execBreakReceived sent s) := by
  unfold execBreakReceived
  split
  · exact .guarded h fun _ => (h.linked _).breakParser sent
  · exact .next h

theorem execParserTakesItem_timers : Leaves TimersOk (execParserTakesItem s) := by
  unfold execParserTakesItem
  split
  · exact .next (h.linked _)
  · split
    · exact .next h
    · exact .next (h.linked _).resumeFrame
  · exact .next h

theorem execResponseSent_timers : Leaves TimersOk (execResponseSent s) := by
  unfold execResponseSent
  split
  · exact .next (h.endResponse _ _)
  · exact .next h

theorem execReceiverReturnsToIdle_timers : Leaves TimersOk (execReceiverReturnsToIdle s) := by
  unfold execReceiverReturnsToIdle
  split <;> exact .next h

/-! ### Service commands -/

/-- A service command that is answered with a payload and does nothing else. -/
theorem TimersOk.answered (c : SvcCommand) (payload : State → List Byte) :
    Leaves TimersOk (s.serve c fun t => t.finish .ok (payload t)) :=
  .served c h (h.finish .ok (payload s))

theorem execClearFaults_timers (mask : BitVec 16) : Leaves TimersOk (execClearFaults mask s) := by
  have cleared : TimersOk (s.clearFaults mask) := h
  refine .served _ h ?_
  split
  · exact h.finish _ _
  · exact cleared.finish _ _

theorem execReleaseMode_timers : Leaves TimersOk (execReleaseMode s) :=
  .served _ h (h.releaseMode.finish _ _).settle

theorem execReadRecords_timers (index count : Byte) : Leaves TimersOk (execReadRecords index count s) := by
  refine .served _ h ?_
  split <;> exact h.finish _ _

theorem execCloseRecord_timers (address : BitVec 24) : Leaves TimersOk (execCloseRecord address s) := by
  have closed : TimersOk { s with records := withoutRecord address.toNat s.records } := h
  refine .served _ h ?_
  split
  · exact h.finish _ _
  · split
    · exact h.finish _ _
    · exact closed.finish _ _

theorem execClearRecords_timers : Leaves TimersOk (execClearRecords s) := by
  have cleared : TimersOk { s with records := s.records.filter ErrRecord.pinned } := h
  exact .served _ h (cleared.finish _ _)

theorem execSpareLine_timers (line : BitVec 24) : Leaves TimersOk (execSpareLine line s) := by
  have started (n : Fin 8) : TimersOk (s.startMigration line.toNat .command n) := h
  refine .served _ h ?_
  split
  · exact h.finish _ _
  · split
    · exact h.finish _ _
    · split
      · exact h.finish _ _
      · exact ((started _).finish _ _).settle

theorem execScrubStart_timers (mode : Byte) : Leaves TimersOk (execScrubStart mode s) := by
  refine .served _ h ?_
  split
  · exact h.finish _ _
  · split
    · exact h.finish _ _
    · exact ((h.startScrub _).finish _ _).settle

theorem execScrubStop_timers : Leaves TimersOk (execScrubStop s) := by
  refine .served _ h ?_
  dsimp only
  split
  · exact h
  · split
    · exact h.stopped
    · exact (h.stopped.finish _ _).settle

theorem execGetSetting_timers (item : Byte) : Leaves TimersOk (execGetSetting item s) := by
  refine .served _ h ?_
  split <;> exact h.finish _ _

theorem execSetSetting_timers (item : Byte) (value : Word) : Leaves TimersOk (execSetSetting item value s) := by
  unfold execSetSetting
  split
  · exact .next h
  · exact .served _ h ((h.configured item value).finish _ _)

theorem execSetReaction_timers (source : FaultSource) (value : Word) :
    Leaves TimersOk (execSetReaction source value s) := by
  refine .served _ h ?_
  split
  · exact h.finish _ _
  · exact ((h.react source _).finish _ _).settle

theorem execInspect_timers (location : BitVec 24) : Leaves TimersOk (execInspect location s) := by
  have waiting : TimersOk s.waitForGrant := h
  refine .served _ h ?_
  split
  · exact h.finish _ _
  · split
    · exact h.finish _ _
    · exact waiting.settle

theorem execInspectRead_timers (u : Upset) : Leaves TimersOk (execInspectRead u s) := by
  unfold execInspectRead
  split
  · rename_i loc _ _
    have opened : TimersOk (s.opened loc u) := h
    exact (opened.finish _ _).settled
  · exact .next h

/-! ### Every command -/

theorem exec_timers (c : Instr) : Leaves TimersOk (exec c s) := by
  have kept := TimersOk.keptByTraffic
  cases c with
  | powerOn straps rstN => exact (TimersOk.poweredOn s straps rstN).settled
  | systemReset cause => exact execSystemReset_timers h cause
  | rstNRises => exact kept.execRstNRises h
  | resetCompletes => exact kept.execResetCompletes h
  | fillBegins => exact kept.execFillBegins h
  | readRequest | writeRequest | lockedReadRequest | lockedWriteRequest =>
    exact .guarded h fun _ => kept.present h _
  | writeInsertion => exact kept.execWriteInsertion h
  | writeCompletion => exact kept.execWriteCompletion h
  | readBeatRetaken => exact kept.execReadBeatRetaken h
  | foregroundRead u => exact kept.execForegroundRead h u
  | lockedReadDecode u => exact kept.execLockedReadDecode h u
  | drainEnd u => exact kept.execDrainEnd h u
  | prefetchRead u => exact kept.execPrefetchRead h u
  | fillWrite => exact kept.execFillWrite h
  | migrationStart => exact execMigrationStart_timers h
  | migrationRead u => exact execMigrationRead_timers h u
  | migrationWrite => exact execMigrationWrite_timers h
  | migrationVerify u => exact execMigrationVerify_timers h u
  | scrubWord u => exact execScrubWord_timers h u
  | tick => exact execTick_timers h
  | lockHoldExpiry => exact execLockHoldExpiry_timers h
  | scrubIntervalExpiry => exact execScrubIntervalExpiry_timers h
  | characterReceived samples => exact execCharacterReceived_timers h samples
  | breakReceived sent => exact execBreakReceived_timers h sent
  | parserTakesItem => exact execParserTakesItem_timers h
  | frameTimerExpiry | startBitDetected => exact .guarded h fun _ => h.linked _
  | responseSent => exact execResponseSent_timers h
  | receiverReturnsToIdle => exact execReceiverReturnsToIdle_timers h
  | identify => exact h.answered .identify fun t => identifyBytes t.straps
  | readStatus => exact h.answered .readStatus State.statusBytes
  | readFaults => exact h.answered .readFaults State.faultBytes
  | readSpareMap => exact h.answered .readSpareMap fun t => spareMapBytes t.spareMap
  | resetPart => exact h.answered .resetPart fun _ => []
  | clearFaults mask => exact execClearFaults_timers h mask
  | releaseMode => exact execReleaseMode_timers h
  | readRecords index count => exact execReadRecords_timers h index count
  | closeRecord address => exact execCloseRecord_timers h address
  | clearRecords => exact execClearRecords_timers h
  | spareLine line => exact execSpareLine_timers h line
  | scrubStart mode => exact execScrubStart_timers h mode
  | scrubStop => exact execScrubStop_timers h
  | getSetting item => exact execGetSetting_timers h item
  | setSetting item value => exact execSetSetting_timers h item value
  | setReaction source value => exact execSetReaction_timers h source value
  | inspect location => exact execInspect_timers h location
  | inspectRead u => exact execInspectRead_timers h u

end

/-- Settles O58: on an empty queue of commands a step idles, and otherwise it runs the command at the front. -/
theorem timersStayInRange : Obligations.TimersStayInRange := by
  intro s t h ht
  unfold step at ht
  split at ht
  · obtain rfl := Host.Outcome.next.inj ht
    exact h
  · rename_i c cs _
    have front : TimersOk (s.withPending cs) := h
    exact exec_timers front c t ht

end Sys2Proof.Machine
end

section
/-! Locked sequences: a locked request taken (R79, R85), and the decode of a locked read's grant (R81). -/

namespace Sys2Proof.Machine

/-! ### Locked reads -/

/-- A locked read in range waits for the array (R79). -/
theorem State.takeLockedRead_in (s : State) (req : Request) (h : markedInRange (s.marksOf req) 0 = true) :
    s.takeLockedRead req = s.waitBeat req (s.marksOf req) 0 .onLock := if_pos h

/-- A locked read beyond V is answered zero OK (R79). -/
theorem State.takeLockedRead_beyond (s : State) (req : Request) (h : ¬ markedInRange (s.marksOf req) 0 = true) :
    s.takeLockedRead req = s.endTransaction.respond (.beatOk 0) := if_neg h

/-! ### Locked writes -/

/-- An admitted locked request has one beat (R24). -/
theorem LockAdmits.count_eq_one {s : State} {req : Request} (h : LockAdmits s req) (hl : req.locked = true) :
    req.count = 1 := by
  rcases h with h | ⟨hc, _⟩
  · exact (Bool.false_ne_true (h.symm.trans hl)).elim
  · exact hc

/-- A locked write is admitted at the word of its lock (R24). -/
theorem LockAdmits.address_eq {s : State} {req : Request} (h : LockAdmits s req) (hl : req.locked = true)
    (ho : req.op = .write) {l : Lock} (hs : s.lock = some l) : l.address = req.address.toNat := by
  rcases h with h | ⟨_, ⟨hr, _⟩ | ⟨_, hk⟩⟩
  · exact (Bool.false_ne_true (h.symm.trans hl)).elim
  · cases hr.symm.trans ho
  · simp only [hs, Option.any_some, Bool.and_eq_true, decide_eq_true_eq] at hk
    exact hk.2

/-- A write of one beat that is marked in range queues it where it enables a lane (R29). -/
theorem queuedBeats_single (a : BitVec 22) (b : Beat) (locked p : Bool) (marks : Option (List Bool))
    (hm : markedInRange marks 0 = true) :
    queuedBeats (writeOf a [b] locked p) marks = if b.lanes = 0 then [] else [(a.toNat, b)] := by
  by_cases hl : b.lanes = 0 <;>
    simp [queuedBeats, addressed, writeOf, Request.beatAddress, hm, hl]

/-- The lock with its hold time absent (R85). -/
theorem timerStopped_some (l : Lock) :
    timerStopped (some l) = some { l with remaining := none, expiryDue := false } := rfl

section
variable (s : State) (req : Request) (hl : req.locked = true)
include hl

/-- A locked write without a queued beat is completed at once, and ends its lock (R30, R85). -/
theorem State.takeWrite_locked_none (h : queuedBeats req (s.marksOf req) = []) :
    s.takeWrite req = ({ s with lock := none } : State).endTransaction.respond .writeOk := by
  simp [State.takeWrite, hl, h, State.respond, State.endTransaction]

/-- A locked write with room is inserted as THROUGH, its hold timer stopped (R29, R85). -/
theorem State.takeWrite_locked_room (h : queuedBeats req (s.marksOf req) ≠ [])
    (hr : (queuedBeats req (s.marksOf req)).length ≤ 8 - s.queue.length) :
    s.takeWrite req =
      ({ s with lock := timerStopped s.lock } : State).insertWrite req (s.marksOf req) .through := by
  simp [State.takeWrite, hl, h, State.freeEntries, hr, State.postingOf]

/-- A locked write without room waits for space, its hold timer stopped (R29, R85). -/
theorem State.takeWrite_locked_full (h : 8 - s.queue.length < (queuedBeats req (s.marksOf req)).length) :
    s.takeWrite req = { s with
      lock := timerStopped s.lock, port := .writeSpaceWait,
      txn := some ⟨req, s.marksOf req, .write .through [] false⟩ } := by
  have hn : queuedBeats req (s.marksOf req) ≠ [] := List.ne_nil_of_length_pos (Nat.zero_lt_of_lt h)
  simp [State.takeWrite, hl, hn, State.freeEntries, Nat.not_le.mpr h, State.postingOf]

end

/-- Settles O13: the read by its range; the write by its lane set and the room in the queue. -/
theorem lockedRequestsTaken : Obligations.LockedRequestsTaken := by
  refine ⟨fun a n p s hw hp ha => ?_, fun a b p s l hp ha hs hv => ?_⟩
  · let req := readOf a n true p
    have ⟨_, lock_admits, range_admits, _⟩ := ha
    have one : 0 < req.count := by rw [lock_admits.count_eq_one rfl]; exact Nat.one_pos
    have taken : exec (.lockedReadRequest a n p) s = .next (s.takeLockedRead req).settle :=
      exec_admitted _ req s rfl hw hp ha
    have marked : markedInRange (s.marksOf req) 0 = true ↔ a.toNat < s.straps.visible :=
      s.marked_iff_visible req range_admits 0 one
    refine ⟨fun hv => ?_, fun hv => ?_⟩
    · rw [taken, s.takeLockedRead_in req (marked.mpr hv)]
      rfl
    · rw [taken, s.takeLockedRead_beyond req (mt marked.mp (Nat.not_lt.mpr hv)), s.endTransaction_ready hp.1]
  · intro req u placed
    have ⟨_, lock_admits, range_admits, _⟩ := ha
    have taken : exec (.lockedWriteRequest a [b] p) s = .next (s.takeWrite req).settle :=
      exec_admitted _ req s rfl rfl hp ha
    have visible : a.toNat < s.straps.visible := lock_admits.address_eq rfl rfl hs ▸ hv
    have queued := queuedBeats_single a b true p (s.marksOf req)
      ((s.marked_iff_visible req range_admits 0 Nat.one_pos).mpr visible)
    have stopped : timerStopped s.lock = u.lock := by rw [hs, timerStopped_some]
    refine ⟨fun hb => ?_, fun hb hr => ?_, fun hb hr => ?_⟩
    · rw [if_pos hb] at queued
      rw [taken, s.takeWrite_locked_none req rfl queued,
        State.endTransaction_ready { s with lock := none } hp.1]
    all_goals rw [if_neg hb] at queued
    · have room : (queuedBeats req (s.marksOf req)).length ≤ 8 - s.queue.length := by
        rw [queued, List.length_singleton]
        omega
      rw [taken, s.takeWrite_locked_room req rfl (by rw [queued]; exact List.cons_ne_nil _ _) room, stopped,
        State.insertWrite_through, queued]
      rfl
    · have full : 8 - s.queue.length < (queuedBeats req (s.marksOf req)).length := by
        rw [queued, List.length_singleton]
        omega
      rw [taken, s.takeWrite_locked_full req rfl full, stopped]

/-! ### The decode of a locked read -/

/-- A locked read's word that can be corrected is reported and not offered: the locked write to come rewrites it (R81,
R94). -/
theorem State.foregroundReport_locked_corrected (s : State) (d : Decoded) (a : Nat) (k : Location)
    (h : d.outcome = .corrected) : s.foregroundReport d a k true false =
      (s.arrive ⟨a, k, .corrected, d.bit, d.syndrome, .lockedRead, .byWrite, false⟩).occur .corrected := by
  rw [State.foregroundReport, detected_corrected d h]
  rfl

/-- A usable decode answers the beat OK and makes the lock (R81). -/
theorem State.answerLocked_usable (s : State) (d : Decoded) (a : Nat)
    (h : d.outcome = .clean ∨ d.outcome = .corrected) :
    s.answerLocked d a = { s with
      lock := some ⟨a, .held, some s.settings.lockLimit, false⟩, txn := none, port := .ready,
      upSent := s.upSent ++ [.beatOk d.data] } := by
  rcases h with h | h <;> simp only [State.answerLocked, h] <;> rfl

/-- Any other answers it ERROR and makes none (R81). -/
theorem State.answerLocked_fails (s : State) (d : Decoded) (a : Nat) (kind : Detected) (h : d.Fails kind) :
    s.answerLocked d a = (s.respond .beatError).endTransaction := by
  rcases h with ⟨h, _⟩ | ⟨h, _⟩ <;> simp only [State.answerLocked, h]

/-- The end of a locked read's grant: the report of its decode, then the answer (R81). -/
theorem exec_lockedReadDecode (s : State) (a loc : Nat) (k : Location) (u : Upset) (hm : s.mem.wf = true)
    (hg : s.grant = some ⟨.foreground a loc k true, false⟩) :
    exec (.lockedReadDecode u) s = .next (((s.opened loc u).foregroundReport (decode (s.found loc u)) a k true
      false).answerLocked (decode (s.found loc u)) a).settle := by
  simp [exec, execLockedReadDecode, hg, State.opened_read s loc u hm]

/-- Settles O14: the report by the decode's outcome, and the answer and the lock that follow it. -/
theorem lockedReadDecoded : Obligations.LockedReadDecoded := by
  intro s a loc k u hm hg d r locks
  have ends := exec_lockedReadDecode s a loc k u hm hg
  obtain ⟨_, sent, _⟩ := r.foregroundReport_frame d a k true false
  have usable (x : State) (hx : r.foregroundReport d a k true false = x)
      (hlimit : x.settings.lockLimit = s.settings.lockLimit) (h : d.outcome = .clean ∨ d.outcome = .corrected) :
      exec (.lockedReadDecode u) s = .next (locks x).settle := by
    have answered := x.answerLocked_usable d a h
    rw [hlimit, show x.upSent = s.upSent from hx ▸ sent] at answered
    rw [ends]
    exact next_settle_congr ((congrArg (State.answerLocked · d a) hx).trans answered)
  refine ⟨holds_disturbed s loc u hm, fun h => ?_, fun h => ?_, fun kind h => ?_⟩
  · exact usable r (r.foregroundReport_clean d a k true false h) rfl (.inl h)
  · exact usable _ (r.foregroundReport_locked_corrected d a k h) (by simp [r]) (.inr h)
  · have answered := (State.answerLocked_fails (r.foregroundReport d a k true false) d a kind h).trans
      (State.endTransaction_respond r _ .beatError sent)
    rw [ends]
    refine (next_settle_congr answered).trans ?_
    rw [r.foregroundReport_fails (s.found loc u) a k true kind h]
    rfl

end Sys2Proof.Machine
end

section
/-! Ticks and expiries (R82, R83, R144, R146, R147; logs 2 and 31). -/

namespace Sys2Proof.Machine

/-! ### What is due -/

theorem State.lockExpiryDue_iff (s : State) :
    s.lockExpiryDue = true ↔ ∃ l, s.lock = some l ∧ l.expiryDue = true := by
  cases hl : s.lock <;> simp [State.lockExpiryDue, hl]

theorem Scrub.expiryDue_iff (sc : Scrub) :
    sc.expiryDue = true ↔ ∃ mode n, sc.run = .running mode (.waiting n true) := by
  unfold Scrub.expiryDue
  split
  · rename_i mode n due hr
    simp [hr]
  · rename_i hr
    refine ⟨fun h => (Bool.false_ne_true h).elim, ?_⟩
    rintro ⟨mode, n, h⟩
    exact (hr mode n true h).elim

/-! ### Expiries -/

/-- An interval whose expiry is due gives way to a block (R144). -/
theorem Scrub.expired_due (sc : Scrub) (block : Nat) (mode : ScrubMode) (n : Nat)
    (h : sc.run = .running mode (.waiting n true)) :
    sc.expired block = { sc with run := .running mode (.sweeping block) } := by
  simp only [Scrub.expired, h]

/-- Where no expiry is due the scrub is left as it is. -/
theorem Scrub.expired_not_due (sc : Scrub) (block : Nat) (h : sc.expiryDue = false) : sc.expired block = sc := by
  unfold Scrub.expired
  split
  · rename_i mode n hr
    have due := sc.expiryDue_iff.mpr ⟨mode, n, hr⟩
    exact (Bool.false_ne_true (h.symm.trans due)).elim
  · rfl

theorem State.expireInterval_due (s : State) (mode : ScrubMode) (n : Nat)
    (h : s.scrub.run = .running mode (.waiting n true)) : s.expireInterval =
      { s with scrub := { s.scrub with run := .running mode (.sweeping s.settings.scrubBlock) } } := by
  rw [State.expireInterval, s.scrub.expired_due _ mode n h]

theorem State.expireInterval_not_due (s : State) (h : s.scrub.expiryDue = false) : s.expireInterval = s := by
  rw [State.expireInterval, s.scrub.expired_not_due _ h]

/-- The lock's expiry is taken first, where it is due (log 31). -/
theorem State.takeExpiries_lock (s : State) (h : s.lockExpiryDue = true) :
    s.takeExpiries = s.expireLock.expireInterval := by
  rw [State.takeExpiries, if_pos h]

theorem State.takeExpiries_no_lock (s : State) (h : s.lockExpiryDue = false) : s.takeExpiries = s.expireInterval := by
  rw [State.takeExpiries, h, if_neg Bool.false_ne_true]

theorem State.takeExpiries_none (s : State) (hl : s.lockExpiryDue = false) (hs : s.scrub.expiryDue = false) :
    s.takeExpiries = s := by
  rw [s.takeExpiries_no_lock hl, s.expireInterval_not_due hs]

/-- The lock has ended, so that its expiry is not due again (R83). -/
theorem State.expireLock_lockExpiryDue (s : State) : s.expireLock.lockExpiryDue = false := rfl

/-! ### The tick -/

/-- An absent hold time stays absent (R85). -/
theorem Lock.ticked_absent (l : Lock) (h : l.remaining = none) : l.ticked = l := by
  rw [Lock.ticked, h]

/-- A hold time falls by one (R82). -/
theorem Lock.ticked_falls (l : Lock) (n : Nat) (h : l.remaining = some n) (hn : 1 < n) :
    l.ticked = { l with remaining := some (n - 1) } := by
  simp [Lock.ticked, h, Nat.not_le.mpr hn]

/-- The tick that ends a hold time makes its expiry due (R82, log 2). -/
theorem Lock.ticked_last (l : Lock) (n : Nat) (h : l.remaining = some n) (hn : ¬ 1 < n) :
    l.ticked = { l with expiryDue := true } := by
  simp [Lock.ticked, h, Nat.not_lt.mp hn]

/-- An interval of a run falls by one, and the tick that ends it makes its expiry due (R144, log 2). -/
theorem Scrub.ticked_waiting (sc : Scrub) (mode : ScrubMode) (n : Nat) (due : Bool)
    (h : sc.run = .running mode (.waiting n due)) : sc.ticked =
      { sc with run := .running mode (if 1 < n then .waiting (n - 1) due else .waiting n true) } := by
  by_cases hn : 1 < n
  · simp [Scrub.ticked, h, hn, Nat.not_le.mpr hn]
  · simp [Scrub.ticked, h, hn, Nat.not_lt.mp hn]

/-- A tick moves a WAITING run alone (R146). -/
theorem Scrub.ticked_other (sc : Scrub) (h : ∀ mode n due, sc.run ≠ .running mode (.waiting n due)) :
    sc.ticked = sc := by
  unfold Scrub.ticked
  split
  · rename_i mode n due hr
    exact (h mode n due hr).elim
  · rfl

/-- A tick looks at what is left once the expiries have been taken (log 2). -/
theorem exec_tick_congr {s t : State} (h : s.takeExpiries = t.takeExpiries) : exec .tick s = exec .tick t := by
  simp only [exec, execTick, h]

/-- A tick that finds no expiry due (R82, R144, R147). -/
theorem exec_tick_idle (s : State) (hl : s.lockExpiryDue = false) (hs : s.scrub.expiryDue = false) :
    exec .tick s = .next ({ s with
      lock := s.lock.map Lock.ticked, scrub := s.scrub.ticked, tickLength := s.settings.tickDivisor } : State).settle
    := by
  simp only [exec, execTick, s.takeExpiries_none hl hs]

/-! ### The rows of the expiries -/

theorem exec_lockHoldExpiry_due (s : State) (h : s.lockExpiryDue = true) :
    exec .lockHoldExpiry s = .next s.expireLock.settle := if_pos h

theorem exec_lockHoldExpiry_not_due (s : State) (h : s.lockExpiryDue = false) :
    exec .lockHoldExpiry s = .next s := if_neg (Bool.eq_false_iff.mp h)

theorem exec_scrubIntervalExpiry_due (s : State) (h : s.scrub.expiryDue = true) :
    exec .scrubIntervalExpiry s = .next s.expireInterval.settle := if_pos h

/-- Settles O35: a tick without expiries, what is due and in which order a tick takes it, and the two expiries. -/
theorem ticksAndExpiries : Obligations.TicksAndExpiries := by
  refine ⟨fun s hl hs => ?_, fun s => ⟨s.lockExpiryDue_iff, s.scrub.expiryDue_iff, fun h => ?_, fun mode n hl hr => ?_⟩,
    fun s => ⟨fun l hl hd => ?_, fun h => ?_⟩, fun s mode n hr => ?_⟩
  · intro lock run
    have locks : s.lock.map Lock.ticked = lock := by
      refine congrArg (Option.map · s.lock) (funext fun l => ?_)
      cases hr : l.remaining with
      | none => rw [l.ticked_absent hr]
      | some n =>
        by_cases hn : 1 < n
        · simp [l.ticked_falls n hr hn, hn]
        · simp [l.ticked_last n hr hn, hn, hr]
    have runs : s.scrub.ticked = { s.scrub with run := run } := by
      by_cases hw : ∃ mode n due, s.scrub.run = .running mode (.waiting n due)
      · obtain ⟨mode, n, due, hr⟩ := hw
        rw [s.scrub.ticked_waiting mode n due hr]
        simp only [run, hr]
      · have kept : run = s.scrub.run := by
          unfold run
          split
          · exact (hw ⟨_, _, _, by assumption⟩).elim
          · rfl
        rw [s.scrub.ticked_other fun mode n due hr => hw ⟨mode, n, due, hr⟩, kept]
    rw [exec_tick_idle s hl hs, locks, runs]
  · refine exec_tick_congr ?_
    rw [s.takeExpiries_lock h]
    exact (s.expireLock.takeExpiries_no_lock s.expireLock_lockExpiryDue).symm
  · refine exec_tick_congr ?_
    rw [s.takeExpiries_no_lock hl, s.expireInterval_due mode n hr]
    exact (State.takeExpiries_none
      { s with scrub := { s.scrub with run := .running mode (.sweeping s.settings.scrubBlock) } } hl rfl).symm
  · exact exec_lockHoldExpiry_due s (s.lockExpiryDue_iff.mpr ⟨l, hl, hd⟩)
  · refine exec_lockHoldExpiry_not_due s (Bool.eq_false_iff.mpr fun hd => ?_)
    obtain ⟨l, hl, hx⟩ := s.lockExpiryDue_iff.mp hd
    exact Bool.false_ne_true ((h l hl).symm.trans hx)
  · intro t
    refine ⟨?_, (State.stands_scrub_iff t).mpr ⟨mode, _, rfl⟩⟩
    rw [exec_scrubIntervalExpiry_due s (s.scrub.expiryDue_iff.mpr ⟨mode, n, hr⟩), s.expireInterval_due mode n hr]

end Sys2Proof.Machine
end

section
/-! The Error Record Table: the record of a word, where an arrival is placed, and what follows it (R91, R95 to R105,
R107), with the queue's answer to an offer (R47). -/

namespace Sys2Proof.Machine

/-! ### The record of a word -/

/-- A word has one record at most (R91). -/
theorem RecordsOk.eq_of_getElem? {rs : List ErrRecord} (h : RecordsOk rs) {i j : Nat} {r q : ErrRecord}
    (hi : rs[i]? = some r) (hj : rs[j]? = some q) (ha : r.address = q.address) : i = j := by
  obtain ⟨_, distinct, _⟩ := h
  obtain ⟨hil, rfl⟩ := List.getElem?_eq_some_iff.mp hi
  obtain ⟨hjl, rfl⟩ := List.getElem?_eq_some_iff.mp hj
  rw [List.pairwise_iff_getElem] at distinct
  rcases Nat.lt_trichotomy i j with hlt | heq | hgt
  · exact absurd ha (distinct i j hil hjl hlt)
  · exact heq
  · exact absurd ha.symm (distinct j i hjl hil hgt)

theorem RecordsOk.eq_of_mem {rs : List ErrRecord} (h : RecordsOk rs) {r q : ErrRecord} (hr : r ∈ rs) (hq : q ∈ rs)
    (ha : r.address = q.address) : r = q := by
  obtain ⟨i, hi⟩ := List.getElem?_of_mem hr
  obtain ⟨j, hj⟩ := List.getElem?_of_mem hq
  obtain rfl := h.eq_of_getElem? hi hj ha
  exact Option.some.inj (hi.symm.trans hj)

/-- Every other record is of another word. -/
theorem RecordsOk.address_ne {rs : List ErrRecord} (h : RecordsOk rs) {i j : Nat} {r q : ErrRecord}
    (hi : rs[i]? = some r) (hj : rs[j]? = some q) (hne : i ≠ j) : q.address ≠ r.address :=
  fun ha => hne (h.eq_of_getElem? hi hj ha.symm)

/-- A search by word address finds the record of the word. -/
theorem RecordsOk.find?_address {rs : List ErrRecord} (h : RecordsOk rs) {r : ErrRecord} {a : Nat} (hr : r ∈ rs)
    (ha : r.address = a) : rs.find? (fun q => q.address = a) = some r := by
  obtain ⟨q, hq⟩ : ∃ q, rs.find? (fun q => q.address = a) = some q :=
    Option.isSome_iff_exists.mp (List.find?_isSome.mpr ⟨r, hr, by simpa using ha⟩)
  have hqa : q.address = a := by simpa using List.find?_some hq
  rw [hq, h.eq_of_mem hr (List.mem_of_find?_eq_some hq) (ha.trans hqa.symm)]

/-- A change of one word's record alone changes the table at its place. -/
theorem RecordsOk.map_eq_set {rs : List ErrRecord} (h : RecordsOk rs) {i : Nat} {r : ErrRecord} (hi : rs[i]? = some r)
    (f : ErrRecord → ErrRecord) (hf : ∀ q, q.address ≠ r.address → f q = q) : rs.map f = rs.set i (f r) := by
  obtain ⟨hlt, _⟩ := List.getElem?_eq_some_iff.mp hi
  refine List.ext_getElem? fun j => ?_
  rw [List.getElem?_map, List.getElem?_set]
  by_cases hij : i = j
  · subst hij
    rw [hi, if_pos rfl, if_pos hlt, Option.map_some]
  · rw [if_neg hij]
    cases hj : rs[j]? with
    | none => rfl
    | some q => rw [Option.map_some, hf q (h.address_ne hi hj hij)]

/-- The removal of one word's record removes the record at its place. -/
theorem RecordsOk.withoutRecord_eq {rs : List ErrRecord} (h : RecordsOk rs) {i : Nat} {r : ErrRecord}
    (hi : rs[i]? = some r) : withoutRecord r.address rs = rs.eraseIdx i := by
  obtain ⟨hlt, he⟩ := List.getElem?_eq_some_iff.mp hi
  have others (q : ErrRecord) (hq : q ∈ rs.eraseIdx i) : q.address ≠ r.address := by
    obtain ⟨j, hij, hj⟩ := List.mem_eraseIdx_iff_getElem?.mp hq
    exact h.address_ne hi hj (Ne.symm hij)
  have parts : rs = rs.take i ++ r :: rs.drop (i + 1) := by
    rw [← he, List.cons_getElem_drop_succ, List.take_append_drop]
  rw [List.eraseIdx_eq_take_drop_succ] at others ⊢
  unfold withoutRecord
  conv => lhs; rw [parts]
  rw [List.filter_append, List.filter_cons_of_neg (by simp), ← List.filter_append]
  exact List.filter_eq_self.mpr fun q hq => by simpa using others q hq

/-! ### The placing of an arrival -/

/-- An arrival touches no record of another word (R95). -/
theorem touched_other (x : Arrival) (r : ErrRecord) (h : r.address ≠ x.address) : touched x r = r := if_neg h

/-- An arrival from a record's own location updates it (R96). -/
theorem touched_own (x : Arrival) (r : ErrRecord) (ha : r.address = x.address) (hk : r.location = x.location) :
    touched x r = r.updated x := by
  rw [touched, if_pos ha, if_pos hk]

/-- An arrival from another location resets a record in place (R98). -/
theorem touched_reset (x : Arrival) (r : ErrRecord) (ha : r.address = x.address) (hk : r.location ≠ x.location) :
    touched x r = .fresh x := by
  rw [touched, if_pos ha, if_neg hk]

/-- Where the word has a record an arrival touches it (R95, cases 1 and 2). -/
theorem placed_known (rs : List ErrRecord) (x : Arrival) (h : ∃ r ∈ rs, r.address = x.address) :
    placed rs x = some (rs.map (touched x)) :=
  if_pos (by simpa using h)

/-- An arrival for a new word is appended, where a full table has lost its oldest evictable record (R95, R99, R100). -/
theorem placed_new (rs : List ErrRecord) (x : Arrival) (h : ∀ r ∈ rs, r.address ≠ x.address) :
    placed rs x = if rs.length < 16 then some (rs ++ [.fresh x]) else (evictOldest rs).map (· ++ [.fresh x]) :=
  if_neg (by simpa using h)

theorem placed_at (rs : List ErrRecord) (x : Arrival) (h : RecordsOk rs) (i : Nat) (r : ErrRecord)
    (hi : rs[i]? = some r) (ha : r.address = x.address) : placed rs x = some (rs.set i (touched x r)) := by
  rw [placed_known rs x ⟨r, List.mem_of_getElem? hi, ha⟩,
    h.map_eq_set hi (touched x) fun q hq => touched_other x q (ha ▸ hq)]

/-- The worse of two kinds is one of them, and no milder than either (R97). -/
theorem Detected.worse_cases (k l : Detected) :
    (k.worse l = k ∨ k.worse l = l) ∧ k.rank ≤ (k.worse l).rank ∧ l.rank ≤ (k.worse l).rank := by
  unfold Detected.worse
  split
  · exact ⟨.inr rfl, by omega, le_rfl⟩
  · exact ⟨.inl rfl, le_rfl, by omega⟩

/-- Which records can be evicted (R100). -/
theorem ErrRecord.evictable_iff (r : ErrRecord) :
    r.evictable = true ↔ r.kind = .corrected ∧ (r.state = .opened ∨ r.state = .spared) := by
  simp [ErrRecord.evictable]

/-- The oldest evictable record is evicted (R100). -/
theorem evictOldest_first (rs : List ErrRecord) : ∀ (i : Nat) (r : ErrRecord), rs[i]? = some r → r.evictable = true →
    (∀ j q, j < i → rs[j]? = some q → q.evictable = false) → evictOldest rs = some (rs.eraseIdx i) := by
  induction rs with
  | nil => exact fun i r hi => by simp at hi
  | cons u rs ih =>
    intro i r hi hr older
    rw [evictOldest]
    cases i with
    | zero =>
      obtain rfl : u = r := by simpa using hi
      rw [if_pos hr]
      rfl
    | succ i =>
      have hu : u.evictable = false := older 0 u (Nat.succ_pos i) rfl
      rw [if_neg (Bool.eq_false_iff.mp hu),
        ih i r (by simpa using hi) hr fun j q hj hq => older (j + 1) q (by omega) (by simpa using hq)]
      rfl

/-- Without an evictable record none is evicted (R101). -/
theorem evictOldest_none (rs : List ErrRecord) (h : ∀ r ∈ rs, r.evictable = false) : evictOldest rs = none := by
  induction rs with
  | nil => rfl
  | cons u rs ih =>
    obtain ⟨hu, hrs⟩ := List.forall_mem_cons.mp h
    rw [evictOldest, if_neg (Bool.eq_false_iff.mp hu), ih hrs]
    rfl

/-- Settles O26: an update or a reset at the place of the word's record, and for a new word an append, an eviction or a
drop. -/
theorem arrivalPlaced : Obligations.ArrivalPlaced := by
  intro rs x h made evicts
  refine ⟨rfl, fun i r hi ha hk => ?_, fun i r hi ha hk => ?_, fun new => ⟨fun room => ?_,
    fun full i r hi hr older => ?_, fun full kept => ?_⟩⟩
  · obtain ⟨one, own, others⟩ := r.kind.worse_cases x.kind
    refine ⟨_, one, own, others, ?_⟩
    rw [placed_at rs x h i r hi ha, touched_own x r ha hk]
    rfl
  · rw [placed_at rs x h i r hi ha, touched_reset x r ha hk]
    rfl
  · rw [placed_new rs x new, if_pos room]
    rfl
  · have first := evictOldest_first rs i r hi (r.evictable_iff.mpr hr) fun j q hj hq =>
      Bool.eq_false_iff.mpr fun he => older j q hj hq (q.evictable_iff.mp he)
    rw [placed_new rs x new, if_neg (by omega), first]
    rfl
  · have none := evictOldest_none rs fun r hr => Bool.eq_false_iff.mpr fun he => kept r hr (r.evictable_iff.mp he)
    rw [placed_new rs x new, if_neg (by omega), none]
    rfl

/-! ### What follows an arrival -/

/-- An arrival that is dropped raises RECORD_OVERFLOW (R101). -/
theorem State.arrive_dropped (s : State) (x : Arrival) (h : placed s.records x = none) :
    s.arrive x = s.occur .recordOverflow := by
  rw [State.arrive, h]

/-- An arrival that is placed has the record it has left examined (R103). -/
theorem State.arrive_placed (s : State) (x : Arrival) (rs : List ErrRecord) (h : placed s.records x = some rs) :
    s.arrive x = ({ s with records := rs } : State).examine x.address := by
  rw [State.arrive, h]

/-- Which records are promoted (R103, R104). -/
theorem ErrRecord.promotable_iff (r : ErrRecord) (st : Settings) : r.promotable st = true ↔ r.state = .opened ∧
    (r.kind = .corrected ∧ st.promoteThreshold ≤ r.count ∨ st.spareOnUncorrectable = true ∧ r.kind ≠ .corrected) := by
  simp [ErrRecord.promotable]

/-- A slot is found FREE exactly where one is. -/
theorem freeSlot_isSome_iff (map : PerSlot SpareEntry) : (freeSlot map).isSome = true ↔ ∃ n, map.get n = .free := by
  cases h : freeSlot map with
  | none => simpa using freeSlot_none map h
  | some n => simpa using ⟨n, freeSlot_some map n h⟩

/-- The examination of a word's record (R103 to R105). -/
theorem State.examine_found (s : State) (r : ErrRecord) (a : Nat)
    (h : s.records.find? (fun q => q.address = a) = some r) : s.examine a =
      if r.promotable s.settings then
        if (freeSlot s.spareMap).isSome then { s with records := promoted a s.records } else s.occur .spareExhausted
      else s := by
  rw [State.examine, h]

/-- Settles O27: the record that an arrival has left is found, and promoted by its state, its kind and its count. -/
theorem promotionExamined : Obligations.PromotionExamined := by
  refine fun s x => ⟨s.arrive_dropped x, fun rs r hok hp hr ha => ?_⟩
  intro meets
  have examined := State.examine_found { s with records := rs } r x.address
    ((placed_ok _ _ _ hok hp).find?_address hr ha)
  rw [s.arrive_placed x rs hp, examined]
  refine ⟨fun fails => ?_, fun hm free => ?_, fun hm full => ?_⟩
  · exact if_neg fun hm => fails ((r.promotable_iff s.settings).mp hm)
  · rw [if_pos ((r.promotable_iff s.settings).mpr hm), if_pos ((freeSlot_isSome_iff s.spareMap).mpr free)]
    rfl
  · rw [if_pos ((r.promotable_iff s.settings).mpr hm), if_neg]
    intro hs
    obtain ⟨n, hn⟩ := (freeSlot_isSome_iff s.spareMap).mp hs
    exact full n hn

/-! ### Offers and delivery reports -/

/-- What the queue answers to an offer (R47). -/
theorem offerAnswer_held (q : List Entry) (a : Nat) (h : ∃ e ∈ q, e.address = a) : offerAnswer q a = .notNeeded :=
  if_pos ((holdsWord_iff q a).mpr h)

theorem offerAnswer_new (q : List Entry) (a : Nat) (h : ∀ e ∈ q, e.address ≠ a) :
    offerAnswer q a = if q.length < 8 then .queued else .dropped := by
  rw [offerAnswer, (holdsWord_eq_false_iff q a).mpr h]
  rfl

/-- The queue takes an offer exactly where its answer is QUEUED (R47). -/
theorem State.offer_queued (s : State) (kind : EntryKind) (a : Nat) (d : Word) (h : offerAnswer s.queue a = .queued) :
    s.offer kind a d = { s with queue := s.queue ++ [⟨kind, a, d, .full, false, .waiting⟩] } := if_pos h

theorem State.offer_not_queued (s : State) (kind : EntryKind) (a : Nat) (d : Word)
    (h : offerAnswer s.queue a ≠ .queued) : s.offer kind a d = s := if_neg h

/-- A delivery report for a word that has a record changes the record (R107). -/
theorem State.deliveryReport_known (s : State) (a : Nat) (kind : Detected) (y : Option Syndrome) (k : Location)
    (answer : Repair) (h : ∃ r ∈ s.records, r.address = a) :
    s.deliveryReport a kind y k answer = { s with records := delivered a answer s.records } :=
  if_pos (by simpa using h)

/-- A delivery report for a word without a record is an arrival (R107). -/
theorem State.deliveryReport_new (s : State) (a : Nat) (kind : Detected) (y : Option Syndrome) (k : Location)
    (answer : Repair) (h : ∀ r ∈ s.records, r.address ≠ a) :
    s.deliveryReport a kind y k answer = s.arrive ⟨a, k, kind, none, y, .prefetch, answer, true⟩ :=
  if_neg (by simpa using h)

/-- Settles O25: the queue's answer by the word's entry and the room, and the report by the word's record. -/
theorem offerDecided : Obligations.OfferDecided := by
  refine ⟨fun s kind a d => ⟨fun held => ?_, fun new full => ?_, fun new room => ?_⟩, fun s a kind y k answer =>
    ⟨s.deliveryReport_known a kind y k answer, s.deliveryReport_new a kind y k answer⟩⟩
  · have answer := offerAnswer_held s.queue a held
    exact ⟨answer, s.offer_not_queued kind a d (by simp [answer])⟩
  · have answer : offerAnswer s.queue a = .dropped := by rw [offerAnswer_new s.queue a new, if_neg (by omega)]
    exact ⟨answer, s.offer_not_queued kind a d (by simp [answer])⟩
  · have answer : offerAnswer s.queue a = .queued := by rw [offerAnswer_new s.queue a new, if_pos room]
    exact ⟨answer, s.offer_queued kind a d answer⟩

/-! ### The commands on records -/

/-- A command the Command Unit has been handed is carried out. -/
theorem State.serve_handed (s : State) (c : SvcCommand) (f : State → State) (h : s.handed c = true) :
    s.serve c f = .next (f s) := if_pos h

/-- Which records a READ_RECORDS can name (R108). -/
theorem recordsThere_iff (rs : List ErrRecord) (index count : Byte) : recordsThere rs index count = true ↔
    (count = 1 ∨ count = 2) ∧ index.toNat + count.toNat ≤ rs.length := by
  simp [recordsThere]

/-- READ_RECORDS in its two cases (R108, R178). -/
theorem exec_readRecords_there (s : State) (index count : Byte) (h : s.handed (.readRecords index count) = true)
    (hc : count = 1 ∨ count = 2) (hl : index.toNat + count.toNat ≤ s.records.length) :
    exec (.readRecords index count) s =
      .next (s.finish .ok (recordBytes s.records index.toNat count.toNat)) := by
  simp only [exec, execReadRecords, s.serve_handed _ _ h, if_pos ((recordsThere_iff _ _ _).mpr ⟨hc, hl⟩)]

theorem exec_readRecords_bad (s : State) (index count : Byte) (h : s.handed (.readRecords index count) = true)
    (hn : ¬ ((count = 1 ∨ count = 2) ∧ index.toNat + count.toNat ≤ s.records.length)) :
    exec (.readRecords index count) s = .next (s.finish .badArgument []) := by
  simp only [exec, execReadRecords, s.serve_handed _ _ h, if_neg fun there => hn ((recordsThere_iff _ _ _).mp there)]

/-- The records from a place on, one record at a time (R178). -/
theorem recordBytes_succ (rs : List ErrRecord) (i n : Nat) (r : ErrRecord) (h : rs[i]? = some r) :
    recordBytes rs i (n + 1) = r.bytes i ++ recordBytes rs (i + 1) n := by
  obtain ⟨hlt, rfl⟩ := List.getElem?_eq_some_iff.mp h
  rw [recordBytes, List.drop_eq_getElem_cons hlt, List.take_succ_cons, List.zipIdx_cons, List.flatMap_cons]
  rfl

theorem recordBytes_zero (rs : List ErrRecord) (i : Nat) : recordBytes rs i 0 = [] := rfl

/-- CLOSE_RECORD of a word without a record (R109, R178). -/
theorem exec_closeRecord_absent (s : State) (a : BitVec 24) (h : s.handed (.closeRecord a) = true)
    (hn : s.records.find? (fun r => r.address = a.toNat) = none) :
    exec (.closeRecord a) s = .next (s.finish .badArgument []) := by
  simp only [exec, execCloseRecord, s.serve_handed _ _ h, hn]

/-- CLOSE_RECORD of a word with a record (R109, R178). -/
theorem exec_closeRecord_found (s : State) (a : BitVec 24) (r : ErrRecord) (h : s.handed (.closeRecord a) = true)
    (hr : s.records.find? (fun r => r.address = a.toNat) = some r) :
    exec (.closeRecord a) s = .next (if r.pinned then s.finish .refused []
      else ({ s with records := withoutRecord a.toNat s.records } : State).finish .ok []) := by
  simp only [exec, execCloseRecord, s.serve_handed _ _ h, hr]

/-- CLEAR_RECORDS keeps the pinned records (R110). -/
theorem exec_clearRecords (s : State) (h : s.handed .clearRecords = true) :
    exec .clearRecords s = .next (({ s with records := s.records.filter ErrRecord.pinned } : State).finish .ok []) := by
  simp only [exec, execClearRecords, s.serve_handed _ _ h]

/-- Which records are pinned (R102). -/
theorem ErrRecord.pinned_iff (r : ErrRecord) : r.pinned = true ↔ r.state = .promotePending ∨ r.state = .migrating := by
  simp [ErrRecord.pinned]

theorem ErrRecord.pinned_eq_false_of_state (r : ErrRecord) (h : r.state = .opened ∨ r.state = .spared) :
    r.pinned = false := by
  rcases h with h | h <;> simp [ErrRecord.pinned, h]

/-- Settles O45: what READ_RECORDS returns, what CLOSE_RECORD finds, and what CLEAR_RECORDS keeps. -/
theorem recordCommands : Obligations.RecordCommands := by
  refine ⟨fun s index count h => ⟨fun r hc hr => ?_, fun r q hc hr hq => ?_, exec_readRecords_bad s index count h⟩,
    fun s a h hok => ⟨fun hn => ?_, fun i r hi ha hs => ?_, fun r hr ha hs => ?_⟩, fun s h => ?_⟩
  · obtain ⟨hlt, _⟩ := List.getElem?_eq_some_iff.mp hr
    subst hc
    rw [exec_readRecords_there s index 1 h (.inl rfl) hlt]
    have one : (1 : Byte).toNat = 0 + 1 := rfl
    rw [one, recordBytes_succ _ _ _ _ hr, recordBytes_zero, List.append_nil]
  · obtain ⟨hlt, _⟩ := List.getElem?_eq_some_iff.mp hq
    subst hc
    rw [exec_readRecords_there s index 2 h (.inr rfl) hlt]
    have two : (2 : Byte).toNat = 0 + 1 + 1 := rfl
    rw [two, recordBytes_succ _ _ _ _ hr, recordBytes_succ _ _ _ _ hq, recordBytes_zero, List.append_nil]
  · have absent : s.records.find? (fun r => r.address = a.toNat) = none :=
      List.find?_eq_none.mpr fun r hr => by simpa using hn r hr
    exact exec_closeRecord_absent s a h absent
  · rw [exec_closeRecord_found s a r h (hok.find?_address (List.mem_of_getElem? hi) ha),
      if_neg (Bool.eq_false_iff.mp (r.pinned_eq_false_of_state hs)), ← ha, hok.withoutRecord_eq hi]
  · rw [exec_closeRecord_found s a r h (hok.find?_address hr ha), if_pos (r.pinned_iff.mpr hs)]
  · have pinned : ErrRecord.pinned = fun r => decide (r.state = .promotePending ∨ r.state = .migrating) :=
      funext fun r => Bool.eq_iff_iff.mpr (r.pinned_iff.trans decide_eq_true_iff.symm)
    rw [exec_clearRecords s h, pinned]

end Sys2Proof.Machine
end

section
/-! Pinned records (R102): what an arrival, a delivery report and a change of states leave of the pinned record of a
word. -/

namespace Sys2Proof.Machine

/-! ### The table -/

theorem ErrRecord.not_evictable_of_pinned (r : ErrRecord) (h : r.pinned = true) : r.evictable = false :=
  pinned_not_evictable r (r.pinned_iff.mp h)

/-- A record that is not evictable is there after an arrival, as the arrival touches it (R95, R100). -/
theorem touched_mem_placed (rs table : List ErrRecord) (x : Arrival) (r : ErrRecord) (hr : r ∈ rs)
    (he : r.evictable = false) (hp : placed rs x = some table) : touched x r ∈ table := by
  by_cases known : ∃ q ∈ rs, q.address = x.address
  · rw [placed_known rs x known] at hp
    obtain rfl := Option.some.inj hp
    exact List.mem_map_of_mem hr
  · have new : ∀ q ∈ rs, q.address ≠ x.address := fun q hq ha => known ⟨q, hq, ha⟩
    rw [placed_new rs x new] at hp
    rw [touched_other x r (new r hr)]
    split at hp
    · obtain rfl := Option.some.inj hp
      exact List.mem_append_left _ hr
    · obtain ⟨kept, hk, rfl⟩ := Option.map_eq_some_iff.mp hp
      exact List.mem_append_left _ (evictOldest_keeps rs kept hk r hr he)

/-- An arrival that is not from another location of the record's word keeps its location and its state (R96). -/
theorem touched_keeps (x : Arrival) (r : ErrRecord) (h : x.address = r.address → x.location = r.location) :
    (touched x r).location = r.location ∧ (touched x r).state = r.state := by
  by_cases ha : r.address = x.address
  · rw [touched_own x r ha (h ha.symm).symm]
    exact ⟨rfl, rfl⟩
  · rw [touched_other x r ha]
    exact ⟨rfl, rfl⟩

/-! ### The part -/

/-- `t` has the table of `s`, or the table after one arrival for a word from a location. -/
inductive ArrivesOnce (b : Nat) (loc : Location) (s t : State) : Prop
  | none (same : t.records = s.records)
  | one (u : State) (x : Arrival) (before : u.records = s.records) (word : x.address = b) (made : x.location = loc)
      (after : t.records = (u.arrive x).records)

/-- The table holds a record of a word. -/
def HasRecord (a : Nat) (s : State) : Prop := ∃ q ∈ s.records, q.address = a

/-- The table holds a pinned record of a word, made at a location. -/
def HasPinned (a : Nat) (k : Location) (s : State) : Prop :=
  ∃ q ∈ s.records, q.address = a ∧ q.location = k ∧ q.pinned = true

/-! ### Reports of decodes -/

section
variable (s : State) (d : Decoded) (b : Nat) (loc : Location)

theorem State.foregroundReport_arrivesOnce (locked orphan : Bool) :
    ArrivesOnce b loc s (s.foregroundReport d b loc locked orphan) := by
  unfold State.foregroundReport
  split
  · exact .none rfl
  · refine .one _ _ ?_ rfl rfl rfl
    split
    · simp
    · rfl

theorem State.prefetchReport_arrivesOnce (orphan : Bool) :
    ArrivesOnce b loc s (s.prefetchReport d b loc orphan) := by
  unfold State.prefetchReport
  split
  · exact .none rfl
  · refine .one _ _ ?_ rfl rfl rfl
    split
    · rfl
    · simp
  · exact .one s _ rfl rfl rfl rfl

theorem State.directReport_arrivesOnce (source : Source) (repair : Detected → Repair)
    (fault : Detected → FaultSource) : ArrivesOnce b loc s (s.directReport d b loc source repair fault) := by
  unfold State.directReport
  split
  · exact .none rfl
  · exact .one s _ rfl rfl rfl rfl

omit d in
theorem State.mergeReport_arrivesOnce (d : Option Decoded) : ArrivesOnce b loc s (s.mergeReport d b loc) := by
  cases d with
  | none => exact .none rfl
  | some d => exact s.directReport_arrivesOnce d b loc _ _ _

theorem State.scrubReport_arrivesOnce : ArrivesOnce b loc s (s.scrubReport d b loc) := by
  unfold State.scrubReport
  split
  · exact .one s _ rfl rfl rfl rfl
  all_goals exact s.directReport_arrivesOnce d b loc _ _ _

end

/-! ### A word with a record -/

namespace HasRecord
variable {a : Nat} {s : State} (h : HasRecord a s)
include h

theorem congr {t : State} (ht : t.records = s.records) : HasRecord a t := by
  unfold HasRecord
  rwa [ht]

/-- A change of records that keeps their words. -/
theorem mapped {t : State} (f : ErrRecord → ErrRecord) (hf : ∀ q, (f q).address = q.address)
    (ht : t.records = s.records.map f) : HasRecord a t := by
  obtain ⟨q, hq, hqa⟩ := h
  exact ⟨f q, ht ▸ List.mem_map_of_mem hq, (hf q).trans hqa⟩

/-- A change of the states of a line's records (R106). -/
theorem restated {t : State} {line : Nat} {p : RecordState → Bool} {st : RecordState}
    (ht : t.records = Machine.restated line p st s.records) : HasRecord a t :=
  h.mapped _ (fun q => by split <;> rfl) ht

theorem settle : HasRecord a s.settle := h.congr (by simp)

/-- The end of an event in which no record has changed. -/
theorem settle_of_records {t : State} (ht : t.records = s.records) : HasRecord a t.settle := (h.congr ht).settle

theorem settled : Leaves (HasRecord a) (.next s.settle) := .next h.settle

theorem finish (st : Status) (payload : List Byte) : HasRecord a (s.finish st payload) := h.congr (by simp)

end HasRecord

/-! ### A word with a pinned record -/

namespace HasPinned
variable {a : Nat} {k : Location} {s : State} (h : HasPinned a k s)
include h

theorem hasRecord : HasRecord a s := by
  obtain ⟨q, hq, ha, _⟩ := h
  exact ⟨q, hq, ha⟩

theorem congr {t : State} (ht : t.records = s.records) : HasPinned a k t := by
  unfold HasPinned
  rwa [ht]

/-- A change of records that keeps their words, their locations and that they are pinned. -/
theorem mapped {t : State} (f : ErrRecord → ErrRecord) (hf : ∀ q, (f q).address = q.address ∧
    (f q).location = q.location ∧ (q.pinned = true → (f q).pinned = true)) (ht : t.records = s.records.map f) :
    HasPinned a k t := by
  obtain ⟨q, hq, ha, hk, hp⟩ := h
  obtain ⟨fa, fk, fp⟩ := hf q
  exact ⟨f q, ht ▸ List.mem_map_of_mem hq, fa.trans ha, fk.trans hk, fp hp⟩

/-! ### Arrivals and delivery reports -/

/-- The examination makes records PROMOTE_PENDING at most (R105). -/
theorem examine (b : Nat) : HasPinned a k (s.examine b) := by
  rcases s.examine_records b with same | promoted
  · exact h.congr same
  · refine h.mapped _ (fun q => ?_) promoted
    split
    · exact ⟨rfl, rfl, fun _ => rfl⟩
    · exact ⟨rfl, rfl, id⟩

/-- An arrival for another word, or from the record's own location, leaves the record pinned (R96, R100). -/
theorem arrive (x : Arrival) (hx : x.address = a → x.location = k) : HasPinned a k (s.arrive x) := by
  cases hp : placed s.records x with
  | none => exact s.arrive_dropped x hp ▸ h
  | some table =>
    obtain ⟨q, hq, rfl, rfl, pinned⟩ := h
    obtain ⟨location, state⟩ := touched_keeps x q hx
    rw [s.arrive_placed x table hp]
    refine examine ⟨touched x q, touched_mem_placed _ _ x q hq (q.not_evictable_of_pinned pinned) hp,
      touched_address x q, location, ?_⟩ _
    rwa [ErrRecord.pinned, state]

/-- After any one arrival a record of the word is there (R95, R98, R100). -/
theorem arrive_hasRecord (x : Arrival) : HasRecord a (s.arrive x) := by
  cases hp : placed s.records x with
  | none => exact s.arrive_dropped x hp ▸ h.hasRecord
  | some table =>
    obtain ⟨q, hq, rfl, _, pinned⟩ := h
    have left : HasRecord q.address { s with records := table } :=
      ⟨touched x q, touched_mem_placed _ _ x q hq (q.not_evictable_of_pinned pinned) hp, touched_address x q⟩
    rw [s.arrive_placed x table hp]
    rcases State.examine_records { s with records := table } x.address with same | promoted
    · exact left.congr same
    · exact left.mapped _ (fun q => by split <;> rfl) promoted

/-- A delivery report resets no record: for a word that has one it is no arrival (R107). -/
theorem deliveryReport (b : Nat) (kind : Detected) (y : Option Syndrome) (loc : Location) (answer : Repair) :
    HasPinned a k (s.deliveryReport b kind y loc answer) := by
  by_cases known : ∃ r ∈ s.records, r.address = b
  · rw [s.deliveryReport_known b kind y loc answer known]
    refine h.mapped _ (fun q => ?_) rfl
    split
    · exact ⟨rfl, rfl, id⟩
    · exact ⟨rfl, rfl, id⟩
  · have new : ∀ r ∈ s.records, r.address ≠ b := fun r hr hb => known ⟨r, hr, hb⟩
    rw [s.deliveryReport_new b kind y loc answer new]
    obtain ⟨q, hq, ha, hk, pinned⟩ := h
    exact HasPinned.arrive ⟨q, hq, ha, hk, pinned⟩ _ fun hb => absurd (ha.trans hb.symm) (new q hq)

theorem deliverBad (b : Nat) (kind : Detected) (y : Option Syndrome) (loc : Location) :
    HasPinned a k (s.deliverBad b kind y loc) :=
  deliveryReport (h.congr (by simp)) _ _ _ _ _

/-- One arrival for a word from a location at most leaves a record of the pinned record's word (R102). -/
theorem hasRecord_of_arrival {t : State} {b : Nat} {loc : Location} (ht : ArrivesOnce b loc s t) : HasRecord a t := by
  cases ht with
  | none same => exact (h.congr same).hasRecord
  | one u x before word made after => exact ((h.congr before).arrive_hasRecord x).congr after

/-- It leaves the record pinned where it is not for the record's word from another location (R98). -/
theorem of_arrival {t : State} {b : Nat} {loc : Location} (ht : ArrivesOnce b loc s t) (hb : b = a → loc = k) :
    HasPinned a k t := by
  cases ht with
  | none same => exact h.congr same
  | one u x before word made after =>
    subst word made
    exact ((h.congr before).arrive x hb).congr after

/-! ### Reads -/

theorem touched (fresh : Bool) (req : Request) (i : Nat) : HasPinned a k (s.touched fresh req i) := by
  unfold State.touched
  split
  · obtain ⟨ra, g, he, _⟩ := s.touchLine_eq (req.beatAddress i)
    exact h.congr (by rw [he])
  · exact h

/-- A beat delivered from a BAD slot makes a delivery report (R76). -/
theorem takeBeat (b : Nat) : HasPinned a k (s.takeBeat b).2 := by
  unfold State.takeBeat
  split
  · split
    · exact h
    · split <;> exact h
  · split
    · split
      · exact h
      · exact h.deliverBad _ _ _ _
      · exact h
    all_goals exact h

omit h in
theorem serveBeats (req : Request) (marks : Option (List Bool)) (n : Nat) : ∀ {s : State}, HasPinned a k s →
    ∀ fresh, HasPinned a k (State.serveBeats req marks n fresh s) := by
  induction n with
  | zero => exact fun h _ => h
  | succ n ih =>
    intro s h fresh
    have taken := (h.touched fresh req (req.count - (n + 1))).takeBeat (req.beatAddress (req.count - (n + 1)))
    rw [State.serveBeats]
    dsimp only
    split
    · unfold State.touched at taken
      split
      all_goals
        rename_i u hu
        rw [hu] at taken
      · exact ih (s := u.respond _) taken true
      · exact taken
      · exact taken
    · exact ih (s := s.respond _) h true

theorem retakeBeat : HasPinned a k s.retakeBeat := by
  unfold State.retakeBeat
  split
  · exact serveBeats _ _ _ h _
  · exact h

theorem answerBeat (d : Decoded) : HasPinned a k (s.answerBeat d) := by
  unfold State.answerBeat
  split
  · split
    · exact serveBeats (s := s.respond _) _ _ _ h _
    · exact serveBeats (s := s.respond _) _ _ _ h _
    all_goals exact h
  · exact h

end HasPinned

/-! ### Writes -/

theorem State.insertWrite_records (s : State) (req : Request) (marks : Option (List Bool)) (posting : PostingMode) :
    (s.insertWrite req marks posting).records = s.records := by
  have inserted := s.insertBeats_records req.locked (decide (posting = .through)) (queuedBeats req marks)
  unfold State.insertWrite
  cases posting <;> exact inserted

theorem State.takeWrite_records (s : State) (req : Request) : (s.takeWrite req).records = s.records := by
  unfold State.takeWrite
  extract_lets t need
  split
  · rfl
  · split
    · exact t.insertWrite_records _ _ _
    · rfl

/-! ### Presentation -/

namespace HasPinned
variable {a : Nat} {k : Location} {s : State} (h : HasPinned a k s)
include h

theorem take (req : Request) : HasPinned a k (s.take req) := by
  unfold State.take
  split
  · exact serveBeats _ _ _ h _
  · unfold State.takeLockedRead
    split <;> exact h
  · exact h.congr (s.takeWrite_records req)

theorem check (req : Request) : HasPinned a k (s.check req) := by
  unfold State.check
  split
  · exact h.congr (by simp)
  · exact h.take req

theorem present (req : Request) : HasPinned a k (s.present req) := by
  unfold State.present
  split
  · split
    · have offered : HasPinned a k { s with held := none } := h
      exact (offered.check req).congr (by simp)
    · exact h
  · exact h

/-! ### Prefetched words -/

theorem serveWaitingLine (line : Nat) : HasPinned a k (s.serveWaitingLine line) := by
  unfold State.serveWaitingLine
  split
  · split
    · exact h.retakeBeat
    · exact h
  · exact h

theorem keepPrefetched (entry : Option (Fin 2)) (line : Nat) (slot : RaSlot) :
    HasPinned a k (s.keepPrefetched entry line slot) := by
  cases entry with
  | none => exact h
  | some i =>
    have filled : HasPinned a k (s.fillSlot i slot) := h
    exact serveWaitingLine (filled.congr (by simp)) line

end HasPinned
end Sys2Proof.Machine
end

section
/-! No command but power-on removes a pinned record (R95, R98, R100, R102, R109, R110). -/

namespace Sys2Proof.Machine

/-! ### Commands that keep every record's word -/

section
variable {a : Nat} {s : State} (h : HasRecord a s)
include h

theorem execSystemReset_hasRecord (cause : ResetCause) : Leaves (HasRecord a) (execSystemReset cause s) := by
  have reset : HasRecord a s.systemReset := h.mapped _ (fun q => by split <;> rfl) rfl
  cases cause with
  | rstnFalls => exact .guarded h fun _ => reset.settle_of_records rfl
  | resetPart => exact .guarded h fun _ => reset.settle_of_records rfl

theorem execRstNRises_hasRecord : Leaves (HasRecord a) (execRstNRises s) := by
  unfold execRstNRises
  split
  · exact .next h
  · exact .next h

theorem execWriteInsertion_hasRecord : Leaves (HasRecord a) (execWriteInsertion s) := by
  unfold execWriteInsertion
  split
  · exact .guarded h fun _ => h.settle_of_records (s.insertWrite_records _ _ _)
  · exact .next h

theorem execWriteCompletion_hasRecord : Leaves (HasRecord a) (execWriteCompletion s) := by
  unfold execWriteCompletion
  split
  · exact .next (h.settle_of_records rfl)
  · exact .next h

theorem execFillWrite_hasRecord : Leaves (HasRecord a) (execFillWrite s) := by
  unfold execFillWrite
  split
  · exact .next (h.settle_of_records rfl)
  · exact .next h

/-! ### The migration -/

theorem HasRecord.startMigration (line : Nat) (origin : Origin) (n : Fin 8) :
    HasRecord a (s.startMigration line origin n) := by
  have started : (s.startMigration line origin n).records = startRecords line s.records := rfl
  exact h.restated started

omit h in
theorem HasRecord.releaseLines (n : Nat) : ∀ {s : State}, HasRecord a s → HasRecord a (State.releaseLines n s) := by
  induction n with
  | zero => exact id
  | succ n ih =>
    intro s h
    unfold State.releaseLines
    split
    · exact h
    · rename_i line _
      have released : (s.released line).records = reopenRecords line s.records := rfl
      exact ih (h.restated released)

theorem execMigrationStart_hasRecord : Leaves (HasRecord a) (execMigrationStart s) := by
  unfold execMigrationStart
  split
  · split
    · exact .next h
    · split
      · exact (h.startMigration _ _ _).settled
      · exact (h.releaseLines _).settled
  · exact .next h

theorem execMigrationWrite_hasRecord : Leaves (HasRecord a) (execMigrationWrite s) := by
  unfold execMigrationWrite
  split
  · refine HasRecord.settled ?_
    split <;> exact h
  · exact .next h

/-- A completed line's records become SPARED (R106). -/
theorem HasRecord.verified (n : Fin 8) (line cursor : Nat) (origin : Origin) (previous : Option (Fin 8)) :
    HasRecord a (s.verified n line cursor origin previous) := by
  unfold State.verified
  split
  · exact h
  · have completed : (s.completeMigration n line origin previous).records = spareRecords line s.records := rfl
    exact h.restated completed

/-- An abandoned line's records return to OPEN (R106). -/
theorem HasRecord.verifyFailed (n : Fin 8) (line : Nat) (origin : Origin) (previous : Option (Fin 8)) :
    HasRecord a (s.verifyFailed n line origin previous) := by
  unfold State.verifyFailed
  extract_lets retired
  split
  · exact h
  · have abandoned : HasRecord a { s with
        spareMap := retired, migration := none, records := reopenRecords line s.records } :=
      h.restated (line := line) (p := fun st => st = .promotePending || st = .migrating) (st := .opened) rfl
    exact abandoned

theorem HasRecord.endVerify (n : Fin 8) (equal : Bool) : HasRecord a (s.endVerify n equal) := by
  unfold State.endVerify
  split
  · split
    · exact h.verified _ _ _ _ _
    · exact h.verifyFailed _ _ _ _
  · exact h

theorem execMigrationVerify_hasRecord (u : Upset) : Leaves (HasRecord a) (execMigrationVerify u s) := by
  unfold execMigrationVerify
  split
  · rename_i n loc w orphan _
    have opened : HasRecord a (s.opened loc u) := h
    refine HasRecord.settled ?_
    split
    · unfold State.endOrphanVerify
      split <;> exact opened
    · exact opened.endVerify n _
  · exact .next h

/-! ### The tick and the expiries -/

theorem execTick_hasRecord : Leaves (HasRecord a) (execTick s) := by
  have expired : HasRecord a s.takeExpiries := by
    unfold State.takeExpiries
    split <;> exact h
  exact .next (expired.settle_of_records rfl)

theorem execLockHoldExpiry_hasRecord : Leaves (HasRecord a) (execLockHoldExpiry s) :=
  .guarded h fun _ => h.settle_of_records rfl

theorem execScrubIntervalExpiry_hasRecord : Leaves (HasRecord a) (execScrubIntervalExpiry s) :=
  .guarded h fun _ => h.settle_of_records rfl

/-! ### The link -/

theorem execCharacterReceived_hasRecord (samples : BitVec 30) :
    Leaves (HasRecord a) (execCharacterReceived samples s) := by
  unfold execCharacterReceived
  split <;> exact .next h

theorem execBreakReceived_hasRecord (sent : Nat) : Leaves (HasRecord a) (execBreakReceived sent s) := by
  unfold execBreakReceived
  split
  · refine .guarded h fun _ => ?_
    unfold State.breakParser
    split <;> exact h
  · exact .next h

theorem execParserTakesItem_hasRecord : Leaves (HasRecord a) (execParserTakesItem s) := by
  unfold execParserTakesItem
  split
  · exact .next h
  · split
    · exact .next h
    · exact .next (h.congr (by simp))
  · exact .next h

theorem execResponseSent_hasRecord : Leaves (HasRecord a) (execResponseSent s) := by
  unfold execResponseSent
  split <;> exact .next h

theorem execReceiverReturnsToIdle_hasRecord : Leaves (HasRecord a) (execReceiverReturnsToIdle s) := by
  unfold execReceiverReturnsToIdle
  split <;> exact .next h

/-! ### Service commands -/

/-- A service command that is answered with a payload and does nothing else. -/
theorem HasRecord.answered (c : SvcCommand) (payload : State → List Byte) :
    Leaves (HasRecord a) (s.serve c fun t => t.finish .ok (payload t)) :=
  .served c h (h.finish .ok (payload s))

theorem execClearFaults_hasRecord (mask : BitVec 16) : Leaves (HasRecord a) (execClearFaults mask s) := by
  have cleared : HasRecord a (s.clearFaults mask) := h
  refine .served _ h ?_
  split
  · exact h.finish _ _
  · exact cleared.finish _ _

theorem execReleaseMode_hasRecord : Leaves (HasRecord a) (execReleaseMode s) := by
  have released : HasRecord a s.releaseMode := h
  exact .served _ h (released.finish _ _).settle

theorem execReadRecords_hasRecord (index count : Byte) : Leaves (HasRecord a) (execReadRecords index count s) := by
  refine .served _ h ?_
  split <;> exact h.finish _ _

theorem execSpareLine_hasRecord (line : BitVec 24) : Leaves (HasRecord a) (execSpareLine line s) := by
  refine .served _ h ?_
  split
  · exact h.finish _ _
  · split
    · exact h.finish _ _
    · split
      · exact h.finish _ _
      · exact ((h.startMigration _ _ _).finish _ _).settle

theorem execScrubStart_hasRecord (mode : Byte) : Leaves (HasRecord a) (execScrubStart mode s) := by
  have started (m : ScrubMode) : HasRecord a (s.startScrub m) := h
  refine .served _ h ?_
  split
  · exact h.finish _ _
  · split
    · exact h.finish _ _
    · exact ((started _).finish _ _).settle

theorem execScrubStop_hasRecord : Leaves (HasRecord a) (execScrubStop s) := by
  have stopped : HasRecord a { s with scrub := s.scrub.stop } := h
  refine .served _ h ?_
  dsimp only
  split
  · exact h
  · split
    · exact stopped
    · exact (stopped.finish _ _).settle

theorem execGetSetting_hasRecord (item : Byte) : Leaves (HasRecord a) (execGetSetting item s) := by
  refine .served _ h ?_
  split <;> exact h.finish _ _

theorem execSetSetting_hasRecord (item : Byte) (value : Word) : Leaves (HasRecord a) (execSetSetting item value s) := by
  have put : HasRecord a { s with settings := (s.putSetting item value).2 } := h
  unfold execSetSetting
  split
  · exact .next h
  · exact .served _ h (put.finish _ _)

theorem execSetReaction_hasRecord (source : FaultSource) (value : Word) :
    Leaves (HasRecord a) (execSetReaction source value s) := by
  have reacted (r : Reaction) : HasRecord a (s.react source r) := h
  refine .served _ h ?_
  split
  · exact h.finish _ _
  · exact ((reacted _).finish _ _).settle

theorem execInspect_hasRecord (location : BitVec 24) : Leaves (HasRecord a) (execInspect location s) := by
  have waiting : HasRecord a s.waitForGrant := h
  refine .served _ h ?_
  split
  · exact h.finish _ _
  · split
    · exact h.finish _ _
    · exact waiting.settle

theorem HasRecord.endScrubGrant : HasRecord a s.endScrubGrant := by
  have stopped : HasRecord a { s with scrub := s.scrub.stop } := h
  unfold State.endScrubGrant
  split
  · exact stopped.finish _ _
  · exact h

theorem execInspectRead_hasRecord (u : Upset) : Leaves (HasRecord a) (execInspectRead u s) := by
  unfold execInspectRead
  split
  · rename_i loc _ _
    have opened : HasRecord a (s.opened loc u) := h
    exact (opened.finish _ _).settled
  · exact .next h

end

/-! ### Commands that make arrivals or remove records -/

section
variable {a : Nat} {k : Location} {s : State} (h : HasPinned a k s)
include h

theorem HasPinned.settled : Leaves (HasRecord a) (.next s.settle) := h.hasRecord.settled

theorem execReadBeatRetaken_hasRecord : Leaves (HasRecord a) (execReadBeatRetaken s) := by
  unfold execReadBeatRetaken
  split
  · exact .guarded h.hasRecord fun _ => h.retakeBeat.hasRecord.settle
  · exact .next h.hasRecord

/-- The beats that follow can make a delivery report, so the record has to be pinned still (R76, R98). -/
theorem execForegroundRead_hasRecord (u : Upset)
    (hg : ∀ b loc location locked o, s.grant = some ⟨.foreground b loc location locked, o⟩ → b = a → location = k) :
    Leaves (HasRecord a) (execForegroundRead u s) := by
  unfold execForegroundRead
  split
  · rename_i b loc location orphan hgrant
    extract_lets t d r
    have opened : HasPinned a k t := h
    have reported : HasPinned a k r :=
      opened.of_arrival (t.foregroundReport_arrivesOnce d b location false orphan) (hg _ _ _ _ _ hgrant)
    refine HasPinned.settled (k := k) ?_
    split
    · exact reported
    · exact reported.answerBeat d
  · exact .next h.hasRecord

/-- The word it waits for can serve a beat, which can make a delivery report (R73, R76). -/
theorem execPrefetchRead_hasRecord (u : Upset)
    (hg : ∀ e b loc location o, s.grant = some ⟨.prefetch e b loc location, o⟩ → b = a → location = k) :
    Leaves (HasRecord a) (execPrefetchRead u s) := by
  unfold execPrefetchRead
  split
  · rename_i entry b loc location orphan hgrant
    extract_lets t d r
    have opened : HasPinned a k t := h
    have reported : HasPinned a k r :=
      opened.of_arrival (t.prefetchReport_arrivesOnce d b location orphan) (hg _ _ _ _ _ hgrant)
    exact (reported.keepPrefetched _ _ _).settled
  · exact .next h.hasRecord

theorem execLockedReadDecode_hasRecord (u : Upset) : Leaves (HasRecord a) (execLockedReadDecode u s) := by
  unfold execLockedReadDecode
  split
  · rename_i b loc location orphan _
    extract_lets t d r
    have opened : HasPinned a k t := h
    have reported : HasRecord a r :=
      opened.hasRecord_of_arrival (t.foregroundReport_arrivesOnce d b location true orphan)
    refine HasRecord.settled ?_
    split
    · exact reported
    · unfold State.answerLocked
      split <;> exact reported
  · exact .next h.hasRecord

theorem execDrainEnd_hasRecord (u : Upset) : Leaves (HasRecord a) (execDrainEnd u s) := by
  unfold execDrainEnd
  split
  · rename_i loc location dual orphan e rest _ _
    extract_lets t w r
    have stored : HasPinned a k ((t.store loc (drainWord e w)).storeDual dual (drainWord e w)) := h
    have reported : HasRecord a r :=
      stored.hasRecord_of_arrival (State.mergeReport_arrivesOnce _ e.address location (drainDecode e w))
    exact .next (reported.settle_of_records rfl)
  · exact .next h.hasRecord

theorem execMigrationRead_hasRecord (u : Upset) : Leaves (HasRecord a) (execMigrationRead u s) := by
  unfold execMigrationRead
  split
  · rename_i b loc location orphan _
    extract_lets t w r
    have opened : HasPinned a k t := h
    have reported : HasRecord a r :=
      opened.hasRecord_of_arrival (t.directReport_arrivesOnce (decode w) b location _ _ _)
    refine HasRecord.settled ?_
    split <;> exact reported
  · exact .next h.hasRecord

theorem execScrubWord_hasRecord (u : Upset) : Leaves (HasRecord a) (execScrubWord u s) := by
  unfold execScrubWord
  split
  · rename_i b loc location orphan _
    extract_lets m w t
    have stored : HasPinned a k { s with mem := if scrubbedWord w = w then m else m.write loc (scrubbedWord w) } := h
    have reported : HasRecord a t :=
      stored.hasRecord_of_arrival (State.scrubReport_arrivesOnce _ (decode w) b location)
    have ended : HasRecord a { (if orphan then t else t.advanceScrub) with grant := none } := by
      split <;> exact reported
    exact ended.endScrubGrant.settled
  · exact .next h.hasRecord

/-- A CLOSE_RECORD that finds a pinned record is REFUSED, and no other record is of its word (R91, R109). -/
theorem execCloseRecord_hasRecord (address : BitVec 24) (hok : RecordsOk s.records) :
    Leaves (HasRecord a) (execCloseRecord address s) := by
  have kept := h.hasRecord
  refine .served _ kept ?_
  split
  · exact kept.finish _ _
  · rename_i r hr
    split
    · exact kept.finish _ _
    · rename_i unpinned
      obtain ⟨q, hq, rfl, _, pinned⟩ := h
      have other : q.address ≠ address.toNat := fun hqa => by
        rw [hok.find?_address hq hqa] at hr
        exact unpinned (Option.some.inj hr ▸ pinned)
      have closed : HasRecord q.address { s with records := withoutRecord address.toNat s.records } :=
        ⟨q, List.mem_filter.mpr ⟨hq, by simpa using other⟩, rfl⟩
      exact closed.finish _ _

/-- CLEAR_RECORDS keeps the pinned records (R110). -/
theorem execClearRecords_hasRecord : Leaves (HasRecord a) (execClearRecords s) := by
  have kept := h.hasRecord
  obtain ⟨q, hq, rfl, _, pinned⟩ := h
  have cleared : HasRecord q.address { s with records := s.records.filter ErrRecord.pinned } :=
    ⟨q, List.mem_filter.mpr ⟨hq, pinned⟩, rfl⟩
  exact .served _ kept (cleared.finish _ _)

/-! ### Every command -/

/-- Every command but power-on leaves a record of the pinned record's word; of FOREGROUND_READ and PREFETCH_READ it is
said where the grant is not for the word from another location (R98, R102). -/
theorem exec_hasRecord (c : Instr) (hc : ∀ straps level, c ≠ .powerOn straps level) (hok : RecordsOk s.records)
    (hg : (∀ u, c ≠ .foregroundRead u ∧ c ≠ .prefetchRead u) ∨
      (∀ b loc location locked o, s.grant = some ⟨.foreground b loc location locked, o⟩ → b = a → location = k) ∧
      ∀ e b loc location o, s.grant = some ⟨.prefetch e b loc location, o⟩ → b = a → location = k) :
    Leaves (HasRecord a) (exec c s) := by
  have kept := h.hasRecord
  cases c with
  | powerOn straps level => exact absurd rfl (hc straps level)
  | systemReset cause => exact execSystemReset_hasRecord kept cause
  | rstNRises => exact execRstNRises_hasRecord kept
  | resetCompletes | fillBegins => exact .guarded kept fun _ => kept.settle_of_records rfl
  | readRequest | writeRequest | lockedReadRequest | lockedWriteRequest =>
    exact .guarded kept fun _ => (h.present _).hasRecord
  | writeInsertion => exact execWriteInsertion_hasRecord kept
  | writeCompletion => exact execWriteCompletion_hasRecord kept
  | readBeatRetaken => exact execReadBeatRetaken_hasRecord h
  | foregroundRead u =>
    rcases hg with other | ⟨foreground, _⟩
    · exact absurd rfl (other u).1
    · exact execForegroundRead_hasRecord h u foreground
  | lockedReadDecode u => exact execLockedReadDecode_hasRecord h u
  | drainEnd u => exact execDrainEnd_hasRecord h u
  | prefetchRead u =>
    rcases hg with other | ⟨_, prefetch⟩
    · exact absurd rfl (other u).2
    · exact execPrefetchRead_hasRecord h u prefetch
  | fillWrite => exact execFillWrite_hasRecord kept
  | migrationStart => exact execMigrationStart_hasRecord kept
  | migrationRead u => exact execMigrationRead_hasRecord h u
  | migrationWrite => exact execMigrationWrite_hasRecord kept
  | migrationVerify u => exact execMigrationVerify_hasRecord kept u
  | scrubWord u => exact execScrubWord_hasRecord h u
  | tick => exact execTick_hasRecord kept
  | lockHoldExpiry => exact execLockHoldExpiry_hasRecord kept
  | scrubIntervalExpiry => exact execScrubIntervalExpiry_hasRecord kept
  | characterReceived samples => exact execCharacterReceived_hasRecord kept samples
  | breakReceived sent => exact execBreakReceived_hasRecord kept sent
  | parserTakesItem => exact execParserTakesItem_hasRecord kept
  | frameTimerExpiry | startBitDetected => exact .guarded kept fun _ => kept.congr rfl
  | responseSent => exact execResponseSent_hasRecord kept
  | receiverReturnsToIdle => exact execReceiverReturnsToIdle_hasRecord kept
  | identify => exact kept.answered .identify fun t => identifyBytes t.straps
  | readStatus => exact kept.answered .readStatus State.statusBytes
  | readFaults => exact kept.answered .readFaults State.faultBytes
  | readSpareMap => exact kept.answered .readSpareMap fun t => spareMapBytes t.spareMap
  | resetPart => exact kept.answered .resetPart fun _ => []
  | clearFaults mask => exact execClearFaults_hasRecord kept mask
  | releaseMode => exact execReleaseMode_hasRecord kept
  | readRecords index count => exact execReadRecords_hasRecord kept index count
  | closeRecord address => exact execCloseRecord_hasRecord h address hok
  | clearRecords => exact execClearRecords_hasRecord h
  | spareLine line => exact execSpareLine_hasRecord kept line
  | scrubStart mode => exact execScrubStart_hasRecord kept mode
  | scrubStop => exact execScrubStop_hasRecord kept
  | getSetting item => exact execGetSetting_hasRecord kept item
  | setSetting item value => exact execSetSetting_hasRecord kept item value
  | setReaction source value => exact execSetReaction_hasRecord kept source value
  | inspect location => exact execInspect_hasRecord kept location
  | inspectRead u => exact execInspectRead_hasRecord kept u

end

/-- Settles O32: the pinned record is there as the arrival touches it, so it is pinned still where the arrival does not
reset it in place; and every command makes arrivals, changes states or removes records that are not pinned. -/
theorem pinnedRecordsKept : Obligations.PinnedRecordsKept := by
  unfold Obligations.PinnedRecordsKept
  intro pinned
  have hasPinned (s : State) (r : ErrRecord) (hr : r ∈ s.records) (hp : pinned r) :
      HasPinned r.address r.location s := ⟨r, hr, rfl, rfl, r.pinned_iff.mpr hp⟩
  refine ⟨fun rs table x r _ hr hp hx => ?_,
    fun s x r _ hr hp => ⟨(hasPinned s r hr hp).arrive_hasRecord x, fun hx => ?_⟩,
    fun c s t r hc hok hr hp hg ht => exec_hasRecord (hasPinned s r hr hp) c hc hok hg t ht⟩
  · have left := touched_mem_placed rs table x r hr (pinned_not_evictable r hp) hx
    refine ⟨⟨_, left, touched_address x r⟩, fun hne => ?_, fun _ hk => ⟨_, left, touched_address x r, ?_⟩⟩
    · rwa [touched_other x r hne.symm] at left
    · exact (touched_keeps x r fun _ => hk).2
  · obtain ⟨q, hq, ha, _, hpin⟩ := (hasPinned s r hr hp).arrive x hx
    exact ⟨q, hq, ha, q.pinned_iff.mp hpin⟩

end Sys2Proof.Machine
end

section
/-! The Spare Map and the migration context (R113, R115, R117): which slots are found, and the changes that keep the two
consistent. -/

namespace Sys2Proof.Machine

/-! ### The slots that are found -/

/-- The lowest FREE slot is the one found (R117). -/
theorem freeSlot_of_lowest (map : PerSlot SpareEntry) (n : Fin 8) (hn : map.get n = .free)
    (lowest : ∀ k, map.get k = .free → n ≤ k) : freeSlot map = some n := by
  refine (find?_eq_some_iff_first _ n allSlots).mpr ⟨⟨decide_eq_true hn, mem_allSlots n⟩, fun k _ hk => ?_⟩
  have place (j : Fin 8) : allSlots.idxOf j = j.val := by revert j; decide
  rw [place, place]
  exact Nat.not_lt.mpr (lowest k (of_decide_eq_true hk))

theorem freeSlot_of_none (map : PerSlot SpareEntry) (h : ∀ n, map.get n ≠ .free) : freeSlot map = none :=
  List.find?_eq_none.mpr fun n _ => by simpa using h n

theorem SpareEntry.activeLine_eq_some (e : SpareEntry) (line : Nat) :
    e.activeLine = some line ↔ ∃ origin, e = .active line origin := by
  cases e <;> simp [SpareEntry.activeLine]

/-- Which slot is found for a line depends on the lines that slots are ACTIVE for alone (R60). -/
theorem activeSlot_congr {map map' : PerSlot SpareEntry} (line : Nat)
    (h : ∀ k, (map'.get k).activeLine = (map.get k).activeLine) : activeSlot map' line = activeSlot map line := by
  have by_line (m : PerSlot SpareEntry) :
      activeSlot m line = allSlots.find? fun n => decide ((m.get n).activeLine = some line) := by
    refine congrArg (List.find? · allSlots) (funext fun n => ?_)
    cases m.get n <;> simp [SpareEntry.activeLine, beq_eq_decide]
  simp only [by_line, h]

theorem sourceOf_congr {map map' : PerSlot SpareEntry} (line : Nat)
    (h : ∀ k, (map'.get k).activeLine = (map.get k).activeLine) : sourceOf map' line = sourceOf map line := by
  rw [sourceOf, sourceOf, activeSlot_congr line h]

/-! ### Changes that keep the map and the engine consistent -/

namespace MapOk

variable {map : PerSlot SpareEntry} {mig : Option Migration} (h : MapOk map mig)
include h

/-- The one COPYING entry is the engine's, and its fields are as R113, R115 and R117 say. -/
theorem copying {n : Fin 8} {line cursor : Nat} {origin : Origin} {previous : Option (Fin 8)}
    (hn : map.get n = .copying line cursor origin previous) :
    ∃ m, mig = some m ∧ m.slot = n ∧ m.source = sourceOf map line ∧ cursor < 8 ∧ previous = activeSlot map line := by
  obtain ⟨names, _, fields⟩ := h
  obtain ⟨m, hm, hs⟩ := Option.map_eq_some_iff.mp ((names n).mp (by rw [hn]; rfl))
  obtain ⟨hc, hp, source⟩ := fields n line cursor origin previous hn
  exact ⟨m, hm, hs, source m hm, hc, hp⟩

/-- No entry but the engine's is COPYING (R115). -/
theorem not_copying {k : Fin 8} (hk : mig.map (fun m => m.slot) ≠ some k) : (map.get k).isCopying = false := by
  obtain ⟨names, _⟩ := h
  exact Bool.eq_false_iff.mpr fun hc => hk ((names k).mp hc)

/-- The slot ACTIVE for a line is the one found (R60, R113). -/
theorem activeSlot_eq {n : Fin 8} {line : Nat} {origin : Origin} (hn : map.get n = .active line origin) :
    activeSlot map line = some n := by
  obtain ⟨_, unique, _⟩ := h
  refine activeSlot_of_unique map line n origin hn fun k o hk ho => hk ?_
  exact unique k n line (by rw [ho]; rfl) (by rw [hn]; rfl)

/-- A map in which the same slots are ACTIVE for the same lines, with COPYING entries that are as they should be. -/
theorem of_sameActive {map' : PerSlot SpareEntry} {mig' : Option Migration}
    (same : ∀ k, (map'.get k).activeLine = (map.get k).activeLine)
    (names : ∀ n, (map'.get n).isCopying = true ↔ mig'.map (fun m => m.slot) = some n)
    (fields : ∀ n line cursor origin previous, map'.get n = .copying line cursor origin previous →
      cursor < 8 ∧ previous = activeSlot map line ∧ ∀ m, mig' = some m → m.source = sourceOf map line) :
    MapOk map' mig' := by
  obtain ⟨_, unique, _⟩ := h
  refine ⟨names, fun n k line hn hk => unique n k line ((same n).symm.trans hn) ((same k).symm.trans hk), ?_⟩
  intro n line cursor origin previous hn
  rw [activeSlot_congr line same, sourceOf_congr line same]
  exact fields n line cursor origin previous hn

/-- The engine copies a line into a slot that is not ACTIVE, from the line's ACTIVE slot or the original (R115, R117). -/
theorem copies {map' : PerSlot SpareEntry} {m : Migration} {line cursor : Nat} {origin : Origin}
    (hn : map'.get m.slot = .copying line cursor origin (activeSlot map line)) (hc : cursor < 8)
    (source : m.source = sourceOf map line) (inactive : (map.get m.slot).activeLine = none)
    (same : ∀ k, k ≠ m.slot → (map'.get k).activeLine = (map.get k).activeLine)
    (others : ∀ k, k ≠ m.slot → (map'.get k).isCopying = false) : MapOk map' (some m) := by
  refine h.of_sameActive (fun k => ?_) (fun k => ?_) fun k l c o p hk => ?_
  · by_cases e : k = m.slot
    · rw [e, hn, inactive]
      rfl
    · exact same k e
  · by_cases e : k = m.slot
    · simp [e, hn, SpareEntry.isCopying]
    · simp [others k e, Ne.symm e]
  · have e : k = m.slot := by
      by_contra ne
      have := others k ne
      rw [hk] at this
      cases this
    rw [e, hn] at hk
    obtain ⟨rfl, rfl, rfl, rfl⟩ := SpareEntry.copying.inj hk
    exact ⟨hc, rfl, by rintro _ ⟨⟩; exact source⟩

/-- The engine is IDLE, and no entry is COPYING (R115). -/
theorem idle {map' : PerSlot SpareEntry} (same : ∀ k, (map'.get k).activeLine = (map.get k).activeLine)
    (none_copying : ∀ k, (map'.get k).isCopying = false) : MapOk map' none := by
  refine h.of_sameActive same (fun k => by simp [none_copying k]) fun k l c o p hk => ?_
  have := none_copying k
  rw [hk] at this
  cases this

/-- The engine goes on with its copy in the same slot, from the same source (R119, R120). -/
theorem stepped (f : Migration → Migration) (slot : ∀ m, (f m).slot = m.slot) (source : ∀ m, (f m).source = m.source) :
    MapOk map (mig.map f) := by
  obtain ⟨names, unique, fields⟩ := h
  refine ⟨fun n => ?_, unique, fun n line cursor origin previous hn => ?_⟩
  · simp [names n, slot]
  · obtain ⟨hc, hp, hs⟩ := fields n line cursor origin previous hn
    refine ⟨hc, hp, fun m hm => ?_⟩
    obtain ⟨m₀, hm₀, rfl⟩ := Option.map_eq_some_iff.mp hm
    exact (source m₀).trans (hs m₀ hm₀)

/-- No entry but a COPYING one is COPYING (R115). -/
theorem others_not_copying {n k : Fin 8} {line cursor : Nat} {origin : Origin} {previous : Option (Fin 8)}
    (hn : map.get n = .copying line cursor origin previous) (hk : k ≠ n) : (map.get k).isCopying = false := by
  obtain ⟨m, rfl, rfl, _⟩ := h.copying hn
  exact h.not_copying fun e => hk (Option.some.inj e).symm

/-! ### The operations of the engine -/

/-- A copy starts in a FREE slot (R117). -/
theorem started {n : Fin 8} (line : Nat) (origin : Origin) (hm : mig = none) (hn : map.get n = .free) :
    MapOk (map.set n (.copying line 0 origin (activeSlot map line))) (some ⟨n, sourceOf map line, .read, none⟩) := by
  refine h.copies (PerSlot.get_set_same map n _) (by decide) rfl (by rw [hn]; rfl) (fun k hk => ?_) fun k hk => ?_
  · rw [PerSlot.get_set_other map n k _ hk]
  · rw [PerSlot.get_set_other map n k _ hk]
    exact h.not_copying (by simp [hm])

/-- The cursor rises (R121). -/
theorem advanced {n : Fin 8} {line cursor : Nat} {origin : Origin} {previous : Option (Fin 8)}
    (hn : map.get n = .copying line cursor origin previous) (hc : cursor + 1 < 8) :
    MapOk (map.set n (.copying line (cursor + 1) origin previous))
      (mig.map fun m => { m with stepDue := .read, held := none }) := by
  obtain ⟨m, rfl, rfl, source, _, rfl⟩ := h.copying hn
  refine h.copies (PerSlot.get_set_same map m.slot _) hc source (by rw [hn]; rfl) (fun k hk => ?_) fun k hk => ?_
  · rw [PerSlot.get_set_other map _ k _ hk]
  · rw [PerSlot.get_set_other map _ k _ hk]
    exact h.others_not_copying hn hk

omit h in
/-- The retirement of a COPYING slot leaves the ACTIVE slots (R122). -/
theorem retire_activeLine {n : Fin 8} {line cursor : Nat} {origin : Origin} {previous : Option (Fin 8)}
    (hn : map.get n = .copying line cursor origin previous) (k : Fin 8) :
    ((map.set n .retired).get k).activeLine = (map.get k).activeLine := by
  rw [PerSlot.get_set]
  split
  · rename_i e
    rw [e, hn]
    rfl
  · rfl

/-- After the retirement of the COPYING slot no entry is COPYING (R122). -/
theorem retire_not_copying {n : Fin 8} {line cursor : Nat} {origin : Origin} {previous : Option (Fin 8)}
    (hn : map.get n = .copying line cursor origin previous) (k : Fin 8) :
    ((map.set n .retired).get k).isCopying = false := by
  rw [PerSlot.get_set]
  split
  · rfl
  · exact h.others_not_copying hn ‹k ≠ n›

/-- The copy is abandoned and its slot RETIRED (R122, R123). -/
theorem abandoned {n : Fin 8} {line cursor : Nat} {origin : Origin} {previous : Option (Fin 8)}
    (hn : map.get n = .copying line cursor origin previous) : MapOk (map.set n .retired) none :=
  h.idle (retire_activeLine hn) (h.retire_not_copying hn)

/-- The copy's slot is RETIRED and the copy restarts in a FREE slot (R122). -/
theorem restarted {n k : Fin 8} {line cursor : Nat} {origin : Origin} {previous : Option (Fin 8)}
    (hn : map.get n = .copying line cursor origin previous) (hk : (map.set n .retired).get k = .free) :
    MapOk ((map.set n .retired).set k (.copying line 0 origin previous))
      (mig.map fun m => { m with slot := k, stepDue := .read, held := none }) := by
  obtain ⟨m, rfl, rfl, source, _, rfl⟩ := h.copying hn
  have same := retire_activeLine hn
  refine h.copies (PerSlot.get_set_same _ k _) (by decide) source ?_ (fun j hj => ?_) fun j hj => ?_
  · rw [← same k, hk]
    rfl
  · rw [PerSlot.get_set_other _ k j _ hj, same j]
  · rw [PerSlot.get_set_other _ k j _ hj]
    exact h.retire_not_copying hn j

/-- A slot that a system reset has made FREE becomes RETIRED (R132). -/
theorem retired (n : Fin 8) : MapOk (map.set n (map.get n).retiredIfFree) mig := by
  have ⟨names, _, fields⟩ := h
  have kept (k : Fin 8) : (map.set n (map.get n).retiredIfFree).get k = map.get k ∨
      map.get k = .free ∧ (map.set n (map.get n).retiredIfFree).get k = .retired := by
    rw [PerSlot.get_set, SpareEntry.retiredIfFree_eq]
    split
    · rename_i e
      rw [e]
      split
      · exact .inr ⟨‹_›, rfl⟩
      · exact .inl rfl
    · exact .inl rfl
  refine h.of_sameActive (fun k => ?_) (fun k => ?_) fun k line cursor origin previous hk => ?_ <;>
    rcases kept k with e | ⟨free, e⟩
  · rw [e]
  · rw [e, free]
    rfl
  · rw [e]
    exact names k
  · rw [e, ← names k, free]
    rfl
  · exact fields k line cursor origin previous (e.symm.trans hk)
  · rw [e] at hk
    cases hk

/-- At a system reset COPYING becomes FREE and the engine IDLE (R132). -/
theorem reset : MapOk (.make fun n => (map.get n).atReset) none := by
  refine h.idle (fun k => ?_) fun k => ?_ <;> rw [PerSlot.get_make] <;> cases map.get k <;> rfl

end MapOk

/-- At a completion the new slot is ACTIVE (R124). -/
theorem completedMap_get_same (map : PerSlot SpareEntry) (n : Fin 8) (line : Nat) (origin : Origin)
    (previous : Option (Fin 8)) : (completedMap map n line origin previous).get n = .active line origin :=
  PerSlot.get_set_same _ _ _

/-- At a completion a previous slot is RETIRED, and the others are as they were (R124). -/
theorem completedMap_get_other (map : PerSlot SpareEntry) (n k : Fin 8) (line : Nat) (origin : Origin)
    (previous : Option (Fin 8)) (hk : k ≠ n) : (completedMap map n line origin previous).get k =
      if previous = some k then .retired else map.get k := by
  rw [completedMap, PerSlot.get_set_other _ _ _ _ hk]
  cases previous with
  | none => simp
  | some p => simp [PerSlot.get_set, eq_comm]

/-- The copy completes: its slot takes the place of the line's ACTIVE slot, which is RETIRED (R124). -/
theorem MapOk.completed {map : PerSlot SpareEntry} {mig : Option Migration} (h : MapOk map mig) {n : Fin 8}
    {line cursor : Nat} {origin : Origin} {previous : Option (Fin 8)}
    (hn : map.get n = .copying line cursor origin previous) :
    MapOk (completedMap map n line origin previous) none := by
  have ⟨_, unique, _⟩ := h
  obtain ⟨_, _, _, _, _, rfl⟩ := h.copying hn
  have other (k : Fin 8) (hk : k ≠ n) := completedMap_get_other map n k line origin (activeSlot map line) hk
  have kept_active (k : Fin 8) (l : Nat) (hk : k ≠ n)
      (hl : ((completedMap map n line origin (activeSlot map line)).get k).activeLine = some l) :
      (map.get k).activeLine = some l ∧ l ≠ line := by
    rw [other k hk] at hl
    split at hl
    · cases hl
    · rename_i unfound
      refine ⟨hl, ?_⟩
      rintro rfl
      obtain ⟨o, ho⟩ := (SpareEntry.activeLine_eq_some _ l).mp hl
      exact unfound (h.activeSlot_eq ho)
  have new_active : ((completedMap map n line origin (activeSlot map line)).get n).activeLine = some line := by
    rw [completedMap_get_same]
    rfl
  have none_copying (k : Fin 8) :
      ((completedMap map n line origin (activeSlot map line)).get k).isCopying = false := by
    by_cases hk : k = n
    · rw [hk, completedMap_get_same]
      rfl
    · rw [other k hk]
      split
      · rfl
      · exact h.others_not_copying hn hk
  refine ⟨fun k => by simp [none_copying k], fun j k l hj hk => ?_, fun k l c o p hk => ?_⟩
  · by_cases ej : j = n <;> by_cases ek : k = n
    · rw [ej, ek]
    · rw [ej, new_active] at hj
      exact ((kept_active k l ek hk).2 (Option.some.inj hj).symm).elim
    · rw [ek, new_active] at hk
      exact ((kept_active j l ej hj).2 (Option.some.inj hk).symm).elim
    · exact unique j k l (kept_active j l ej hj).1 (kept_active k l ek hk).1
  · have := none_copying k
    rw [hk] at this
    cases this

end Sys2Proof.Machine
end

section
/-! The start of a migration, by the engine itself (R116 to R118) and by SPARE_LINE (R129, R179). -/

namespace Sys2Proof.Machine

/-! ### The records of a line -/

theorem startRecords_eq (line : Nat) (rs : List ErrRecord) : startRecords line rs = rs.map fun q =>
    if q.address / 8 = line ∧ q.state = .promotePending then { q with state := .migrating } else q := by
  simp [startRecords, restated, lineOf]

theorem reopenRecords_eq (line : Nat) (rs : List ErrRecord) : reopenRecords line rs = rs.map fun q =>
    if q.address / 8 = line ∧ (q.state = .promotePending ∨ q.state = .migrating) then { q with state := .opened }
    else q := by
  simp [reopenRecords, restated, lineOf]

theorem spareRecords_eq (line : Nat) (rs : List ErrRecord) : spareRecords line rs = rs.map fun q =>
    if q.address / 8 = line ∧ q.state ≠ .spared then { q with state := .spared } else q := by
  simp [spareRecords, restated, lineOf]

/-- The PROMOTE_PENDING records after a line has been abandoned are those of the other lines (R106). -/
theorem pending_mem_reopenRecords (line : Nat) (rs : List ErrRecord) (q : ErrRecord)
    (hq : q.state = .promotePending) : q ∈ reopenRecords line rs ↔ q ∈ rs ∧ q.address / 8 ≠ line := by
  rw [reopenRecords_eq, List.mem_map]
  constructor
  · rintro ⟨r, hr, rfl⟩
    split at hq
    · cases hq
    · rename_i other
      rw [if_neg other]
      exact ⟨hr, fun e => other ⟨e, .inl hq⟩⟩
  · rintro ⟨hr, other⟩
    exact ⟨q, hr, if_neg fun e => other e.1⟩

/-! ### The conditions -/

/-- A line is locked by the lock, or by a locked read whose grant has not ended (R116). -/
theorem State.lineLocked_iff (s : State) (line : Nat) : s.lineLocked line = true ↔
    (∃ x, s.lock = some x ∧ x.address / 8 = line) ∨
      ∃ a loc k o, s.grant = some ⟨.foreground a loc k true, o⟩ ∧ a / 8 = line := by
  unfold State.lineLocked
  rw [Bool.or_eq_true]
  have by_lock : s.lock.any (fun l => decide (lineOf l.address = line)) = true ↔
      ∃ x, s.lock = some x ∧ x.address / 8 = line := by
    simp only [Option.any_eq_true, decide_eq_true_iff]
    rfl
  refine or_congr by_lock ?_
  split
  · rename_i a loc k o hg
    rw [decide_eq_true_iff]
    refine ⟨fun h => ⟨a, loc, k, o, hg, h⟩, ?_⟩
    rintro ⟨_, _, _, _, h, hl⟩
    obtain ⟨rfl, _⟩ := GrantOp.foreground.inj (Grant.mk.inj (Option.some.inj (hg.symm.trans h))).1
    exact hl
  · rename_i other
    refine iff_of_false Bool.false_ne_true ?_
    rintro ⟨a, loc, k, o, hg, _⟩
    exact other a loc k o hg

/-- The engine may start where it is IDLE, the fill DONE and no system reset in progress (R116). -/
theorem State.mayStart_iff (s : State) : s.mayStart = true ↔
    s.migration = none ∧ s.fill.filling = false ∧ s.resetInProgress = false := by
  simp [State.mayStart, and_assoc]

/-- SPARE_LINE finds the part ready on the same conditions, for its own line (R129). -/
theorem State.spareBusy_iff (s : State) (line : Nat) : s.spareBusy line = true ↔
    s.resetInProgress = true ∨ s.fill.filling = true ∨ s.migration ≠ none ∨ s.lineLocked line = true := by
  simp [State.spareBusy, or_assoc, Option.isSome_iff_ne_none]

theorem State.pendingLine_eq_none_iff (s : State) : s.pendingLine = none ↔
    ∀ q ∈ s.records, q.state = .promotePending → s.lineLocked (q.address / 8) = true := by
  simp [State.pendingLine, lineOf]

/-- The line of the oldest PROMOTE_PENDING record that is free of the lock (R117). -/
theorem State.pendingLine_of_oldest (s : State) (i : Nat) (r : ErrRecord) (hr : s.records[i]? = some r)
    (pending : r.state = .promotePending) (free : s.lineLocked (r.address / 8) = false)
    (oldest : ∀ j q, j < i → s.records[j]? = some q → q.state = .promotePending →
      s.lineLocked (q.address / 8) = true) : s.pendingLine = some (r.address / 8) := by
  obtain ⟨hi, rfl⟩ := List.getElem?_eq_some_iff.mp hr
  have found : s.records.find? (fun q => q.state = .promotePending && !s.lineLocked (lineOf q.address)) =
      some s.records[i] := by
    refine List.find?_eq_some_iff_getElem.mpr ⟨by simp [pending, lineOf, free], i, hi, rfl, fun j hj => ?_⟩
    have locked := oldest j s.records[j] hj (List.getElem?_eq_getElem _)
    simpa [lineOf, imp_iff_not_or] using locked
  rw [State.pendingLine, found]
  rfl

/-- Which slot is ACTIVE for a line, and the source of its copy (R60, R117). -/
theorem activeSlot_views (map : PerSlot SpareEntry) (line : Nat) :
    (∀ n, activeSlot map line = some n → ∃ o, map.get n = .active line o) ∧
      (activeSlot map line = none → ∀ n o, map.get n ≠ .active line o) ∧
      sourceOf map line = match activeSlot map line with | some p => .slot p | none => .original :=
  ⟨activeSlot_some map line, activeSlot_none map line, rfl⟩

/-- A migration starts, record by record (R106, R117). -/
theorem State.startMigration_eq (s : State) (line : Nat) (origin : Origin) (n : Fin 8) :
    s.startMigration line origin n = { s with
      spareMap := s.spareMap.set n (.copying line 0 origin (activeSlot s.spareMap line)),
      migration := some ⟨n, sourceOf s.spareMap line, .read, none⟩,
      records := s.records.map fun q =>
        if q.address / 8 = line ∧ q.state = .promotePending then { q with state := .migrating } else q } := by
  rw [← startRecords_eq]
  rfl

/-- A line is released, record by record (R106, R118). -/
theorem State.released_eq (s : State) (line : Nat) : s.released line = ({ s with
    records := s.records.map fun q =>
      if q.address / 8 = line ∧ (q.state = .promotePending ∨ q.state = .migrating) then { q with state := .opened }
      else q } : State).occur .spareExhausted := by
  rw [← reopenRecords_eq]
  rfl

/-! ### MIGRATION_START -/

/-- Where the engine may not start it does not (R116). -/
theorem exec_migrationStart_held (s : State) (h : s.mayStart = false) : exec .migrationStart s = .next s := by
  simp [exec, execMigrationStart, h]

/-- Where no line is found the engine does not start (R116). -/
theorem exec_migrationStart_none (s : State) (h : s.pendingLine = none) : exec .migrationStart s = .next s := by
  simp [exec, execMigrationStart, h]

/-- The engine starts on the line found, in the slot found (R117). -/
theorem exec_migrationStart_free (s : State) (line : Nat) (n : Fin 8) (h : s.mayStart = true)
    (hl : s.pendingLine = some line) (hn : freeSlot s.spareMap = some n) :
    exec .migrationStart s = .next (s.startMigration line .promotion n).settle := by
  simp [exec, execMigrationStart, h, hl, hn]

/-- Where no slot is FREE the lines found are released (R118). -/
theorem exec_migrationStart_full (s : State) (line : Nat) (h : s.mayStart = true) (hl : s.pendingLine = some line)
    (hn : freeSlot s.spareMap = none) :
    exec .migrationStart s = .next (State.releaseLines s.records.length s).settle := by
  simp [exec, execMigrationStart, h, hl, hn]

/-- With no line left to be released the release is over. -/
theorem State.releaseLines_done (s : State) (n : Nat) (h : s.pendingLine = none) : State.releaseLines n s = s := by
  cases n <;> simp [State.releaseLines, h]

/-- After a line's release none of its records is PROMOTE_PENDING, and the lines that are locked are the same (R118). -/
theorem State.released_pendingLine_eq_none_iff (s : State) (line : Nat) : (s.released line).pendingLine = none ↔
    ∀ q ∈ s.records, q.state = .promotePending → s.lineLocked (q.address / 8) = false → q.address / 8 = line := by
  have same_locks (l : Nat) : (s.released line).lineLocked l = s.lineLocked l := rfl
  rw [State.pendingLine_eq_none_iff]
  simp only [same_locks, State.released_records]
  refine forall_congr' fun q => ⟨fun h hq hs unlocked => ?_, fun h hq hs => ?_⟩
  · by_contra other
    exact Bool.false_ne_true (unlocked.symm.trans (h ((pending_mem_reopenRecords line _ q hs).mpr ⟨hq, other⟩) hs))
  · obtain ⟨hq, other⟩ := (pending_mem_reopenRecords line _ q hs).mp hq
    by_contra unlocked
    exact other (h hq hs (Bool.eq_false_iff.mpr unlocked))

/-- One line to be released, and it is the only one (R118). -/
theorem exec_migrationStart_last (s : State) (line : Nat) (h : s.mayStart = true) (hl : s.pendingLine = some line)
    (hn : freeSlot s.spareMap = none) (last : (s.released line).pendingLine = none) :
    exec .migrationStart s = .next (s.released line).settle := by
  rw [exec_migrationStart_full s line h hl hn, s.releaseLines_step line hl, State.releaseLines_done _ _ last]

/-- One line to be released, and others that follow it (R118). -/
theorem exec_migrationStart_next (s : State) (line : Nat) (h : s.mayStart = true) (hl : s.pendingLine = some line)
    (hn : freeSlot s.spareMap = none) (more : (s.released line).pendingLine ≠ none) :
    exec .migrationStart s = exec .migrationStart (s.released line) := by
  obtain ⟨next, hnext⟩ := Option.ne_none_iff_exists'.mp more
  have same_length : (s.released line).records.length = s.records.length := by
    simp [reopenRecords, restated]
  rw [exec_migrationStart_full s line h hl hn, s.releaseLines_step line hl,
    exec_migrationStart_full (s.released line) next h hnext hn, same_length]

/-- Settles O29: what holds the engine off, then the line found, by whether a slot is FREE and whether other lines
follow. -/
theorem migrationStarts : Obligations.MigrationStarts := by
  intro s i r line
  refine ⟨fun l => ⟨s.lineLocked_iff l, activeSlot_views s.spareMap l⟩, fun held => ?_,
    fun locked => exec_migrationStart_none s (s.pendingLine_eq_none_iff.mpr locked),
    fun idle filled noReset hr pending free oldest => ?_⟩
  · refine exec_migrationStart_held s (Bool.eq_false_iff.mpr fun may => ?_)
    obtain ⟨idle, filled, noReset⟩ := s.mayStart_iff.mp may
    simp [idle, filled, noReset] at held
  · have may := s.mayStart_iff.mpr ⟨idle, filled, noReset⟩
    have found : s.pendingLine = some line := s.pendingLine_of_oldest i r hr pending free oldest
    refine ⟨fun n hn lowest => ?_, fun full => ?_⟩
    · rw [exec_migrationStart_free s line n may found (freeSlot_of_lowest _ n hn lowest), State.startMigration_eq]
      rfl
    · have no_slot := freeSlot_of_none _ full
      rw [← s.released_eq line]
      intro released
      refine ⟨fun only => ?_, fun q hq hs unlocked other => ?_⟩
      · exact exec_migrationStart_last s line may found no_slot ((s.released_pendingLine_eq_none_iff line).mpr only)
      · refine exec_migrationStart_next s line may found no_slot fun last => other ?_
        exact (s.released_pendingLine_eq_none_iff line).mp last q hq hs unlocked

/-! ### SPARE_LINE -/

section
variable (s : State) (x : BitVec 24) (handed : s.handed (.spareLine x) = true)
include handed

theorem exec_spareLine_beyond (beyond : s.straps.visibleLines ≤ x.toNat) :
    exec (.spareLine x) s = .next (s.finish .badArgument []) := by
  simp only [exec, execSpareLine, s.serve_handed _ _ handed, if_pos beyond]

variable (inside : ¬ s.straps.visibleLines ≤ x.toNat)
include inside

theorem exec_spareLine_busy (busy : s.spareBusy x.toNat = true) :
    exec (.spareLine x) s = .next (s.finish .busy []) := by
  simp only [exec, execSpareLine, s.serve_handed _ _ handed, if_neg inside, if_pos busy]

theorem exec_spareLine_full (ready : ¬ s.spareBusy x.toNat = true) (full : freeSlot s.spareMap = none) :
    exec (.spareLine x) s = .next (s.finish .refused []) := by
  simp only [exec, execSpareLine, s.serve_handed _ _ handed, if_neg inside, if_neg ready, full]

theorem exec_spareLine_free (n : Fin 8) (ready : ¬ s.spareBusy x.toNat = true) (free : freeSlot s.spareMap = some n) :
    exec (.spareLine x) s =
      .next ((s.startMigration x.toNat .command n).finish .ok [BitVec.ofNat 8 n.val]).settle := by
  simp only [exec, execSpareLine, s.serve_handed _ _ handed, if_neg inside, if_neg ready, free, byteNat]

end

/-- Settles O46: the refusals in the rule's order, then the start in the slot found. -/
theorem lineSparedByCommand : Obligations.LineSparedByCommand := by
  intro s x handed line busy
  have busy_iff : s.spareBusy line = true ↔ busy := by
    rw [s.spareBusy_iff, s.lineLocked_iff]
  refine ⟨exec_spareLine_beyond s x handed, fun inside hb => ?_, fun inside hb => ?_⟩
  · exact exec_spareLine_busy s x handed (Nat.not_le.mpr inside) (busy_iff.mpr hb)
  · have ready := mt busy_iff.mp hb
    refine ⟨fun full => ?_, fun n hn lowest => ?_⟩
    · exact exec_spareLine_full s x handed (Nat.not_le.mpr inside) ready (freeSlot_of_none _ full)
    · rw [exec_spareLine_free s x handed (Nat.not_le.mpr inside) n ready (freeSlot_of_lowest _ n hn lowest),
        State.startMigration_eq]
      rfl

end Sys2Proof.Machine
end

section
/-! Every step keeps the Spare Map and the Migration Engine consistent (R113, R115, R117, R122, R124, R132): the commands
that leave both as they are, and those that move the engine. -/

namespace Sys2Proof.Machine

/-! ### Commands that leave the map and the engine as they are -/

/-- `t` has the Spare Map and the migration context of `s`. -/
def SparesKept (s t : State) : Prop := t.spareMap = s.spareMap ∧ t.migration = s.migration

namespace SparesKept

theorem refl (s : State) : SparesKept s s := ⟨rfl, rfl⟩

/-- The traffic on the array reaches neither. -/
theorem keptByTraffic (s : State) : KeptByTraffic (SparesKept s) where
  traffic h ht := by
    rw [ht]
    exact h
  lock h _ := h
  occur _ h := h
  skip h := h

variable {s t : State} (h : SparesKept s t)
include h

theorem settle : SparesKept s t.settle := (keptByTraffic s).settle h

theorem finish (st : Status) (payload : List Byte) : SparesKept s (t.finish st payload) := by
  simpa [SparesKept] using h

theorem endScrubGrant : SparesKept s t.endScrubGrant := by
  unfold State.endScrubGrant
  split
  · exact finish (t := { t with scrub := t.scrub.stop }) h .ok []
  · exact h

theorem takeExpiries : SparesKept s t.takeExpiries := by
  unfold State.takeExpiries
  split <;> exact h

/-- The end of a response, in full or cut, reaches the link and a reset that is due (R171, R172). -/
theorem endResponse (characters : List Byte) (resetPart : Bool) : SparesKept s (t.endResponse characters resetPart) := by
  simpa [SparesKept, State.endResponse] using h

theorem breakParser (sent : Nat) : SparesKept s (t.breakParser sent) := by
  unfold State.breakParser
  split
  · exact h
  · exact h
  · exact h
  · exact h.endResponse _ _

theorem resumeFrame : SparesKept s t.resumeFrame := by
  simpa [SparesKept] using h

end SparesKept

/-- A command that leaves the map and the engine as they are. -/
abbrev KeepsSpares (s : State) (o : Host.Outcome State Fault Refusal) : Prop := Leaves (SparesKept s) o

namespace KeepsSpares

theorem same (s : State) : KeepsSpares s (.next s) := .next (.refl s)

/-- A service command whose effect leaves them so. -/
theorem served {s : State} (c : SvcCommand) {f : State → State} (h : SparesKept s (f s)) :
    KeepsSpares s (s.serve c f) :=
  Leaves.served c (.refl s) h

variable (s : State)

/-- A service command that is answered with a payload and does nothing else. -/
theorem answered (c : SvcCommand) (payload : State → List Byte) :
    KeepsSpares s (s.serve c fun t => t.finish .ok (payload t)) :=
  served c ((SparesKept.refl s).finish _ _)

/-! ### The scrub, the tick and the expiries -/

theorem execScrubWord (u : Upset) : KeepsSpares s (execScrubWord u s) := by
  unfold Machine.execScrubWord
  split
  · rename_i a loc location orphan _
    extract_lets m w t
    have stored : SparesKept s { s with mem := if scrubbedWord w = w then m else m.write loc (scrubbedWord w) } :=
      .refl s
    have reported : SparesKept s t := (SparesKept.keptByTraffic s).scrubReport stored _ _ _
    have ended : SparesKept s { (if orphan then t else t.advanceScrub) with grant := none } := by
      split <;> exact reported
    exact .next ended.endScrubGrant.settle
  · exact same s

theorem execTick : KeepsSpares s (execTick s) := by
  have ticked : SparesKept s { s.takeExpiries with
      lock := s.takeExpiries.lock.map Lock.ticked, scrub := s.takeExpiries.scrub.ticked,
      tickLength := s.takeExpiries.settings.tickDivisor } := (SparesKept.refl s).takeExpiries
  exact .next ticked.settle

theorem execLockHoldExpiry : KeepsSpares s (execLockHoldExpiry s) := by
  have expired : SparesKept s s.expireLock := .refl s
  exact .guarded (.refl s) fun _ => expired.settle

theorem execScrubIntervalExpiry : KeepsSpares s (execScrubIntervalExpiry s) := by
  have expired : SparesKept s s.expireInterval := .refl s
  exact .guarded (.refl s) fun _ => expired.settle

/-! ### The link -/

theorem execCharacterReceived (samples : BitVec 30) : KeepsSpares s (execCharacterReceived samples s) := by
  unfold Machine.execCharacterReceived
  split <;> exact .next (.refl s)

theorem execBreakReceived (sent : Nat) : KeepsSpares s (execBreakReceived sent s) := by
  have broken : SparesKept s { s with link := s.link.broken } := .refl s
  unfold Machine.execBreakReceived
  split
  · exact .guarded (.refl s) fun _ => broken.breakParser sent
  · exact same s

theorem execParserTakesItem : KeepsSpares s (execParserTakesItem s) := by
  have linked (l : Link) : SparesKept s { s with link := l } := .refl s
  unfold Machine.execParserTakesItem
  split
  · exact .next (linked _)
  · split
    · exact same s
    · exact .next (linked _).resumeFrame
  · exact same s

theorem execResponseSent : KeepsSpares s (execResponseSent s) := by
  unfold Machine.execResponseSent
  split
  · exact .next ((SparesKept.refl s).endResponse _ _)
  · exact same s

theorem execReceiverReturnsToIdle : KeepsSpares s (execReceiverReturnsToIdle s) := by
  unfold Machine.execReceiverReturnsToIdle
  split <;> exact .next (.refl s)

/-! ### Service commands -/

theorem execClearFaults (mask : BitVec 16) : KeepsSpares s (execClearFaults mask s) := by
  have cleared : SparesKept s (s.clearFaults mask) := .refl s
  refine served _ ?_
  split
  · exact (SparesKept.refl s).finish _ _
  · exact cleared.finish _ _

theorem execReleaseMode : KeepsSpares s (execReleaseMode s) := by
  have released : SparesKept s s.releaseMode := .refl s
  exact served _ (released.finish _ _).settle

theorem execReadRecords (index count : Byte) : KeepsSpares s (execReadRecords index count s) := by
  refine served _ ?_
  split <;> exact (SparesKept.refl s).finish _ _

theorem execCloseRecord (address : BitVec 24) : KeepsSpares s (execCloseRecord address s) := by
  have closed : SparesKept s { s with records := withoutRecord address.toNat s.records } := .refl s
  refine served _ ?_
  split
  · exact (SparesKept.refl s).finish _ _
  · split
    · exact (SparesKept.refl s).finish _ _
    · exact closed.finish _ _

theorem execClearRecords : KeepsSpares s (execClearRecords s) := by
  have cleared : SparesKept s { s with records := s.records.filter ErrRecord.pinned } := .refl s
  exact served _ (cleared.finish _ _)

theorem execScrubStart (mode : Byte) : KeepsSpares s (execScrubStart mode s) := by
  have started (m : ScrubMode) : SparesKept s (s.startScrub m) := .refl s
  refine served _ ?_
  split
  · exact (SparesKept.refl s).finish _ _
  · split
    · exact (SparesKept.refl s).finish _ _
    · exact ((started _).finish _ _).settle

theorem execScrubStop : KeepsSpares s (execScrubStop s) := by
  have stopped : SparesKept s { s with scrub := s.scrub.stop } := .refl s
  refine served _ ?_
  dsimp only
  split
  · exact .refl s
  · split
    · exact stopped
    · exact (stopped.finish _ _).settle

theorem execGetSetting (item : Byte) : KeepsSpares s (execGetSetting item s) := by
  refine served _ ?_
  split <;> exact (SparesKept.refl s).finish _ _

theorem execSetSetting (item : Byte) (value : Word) : KeepsSpares s (execSetSetting item value s) := by
  have put : SparesKept s { s with settings := (s.putSetting item value).2 } := .refl s
  unfold Machine.execSetSetting
  split
  · exact same s
  · exact served _ (put.finish _ _)

theorem execSetReaction (source : FaultSource) (value : Word) : KeepsSpares s (execSetReaction source value s) := by
  have reacted (r : Reaction) : SparesKept s (s.react source r) := .refl s
  refine served _ ?_
  split
  · exact (SparesKept.refl s).finish _ _
  · exact ((reacted _).finish _ _).settle

theorem execInspect (location : BitVec 24) : KeepsSpares s (execInspect location s) := by
  have waiting : SparesKept s s.waitForGrant := .refl s
  refine served _ ?_
  split
  · exact (SparesKept.refl s).finish _ _
  · split
    · exact (SparesKept.refl s).finish _ _
    · exact waiting.settle

theorem execInspectRead (u : Upset) : KeepsSpares s (execInspectRead u s) := by
  unfold Machine.execInspectRead
  split
  · rename_i loc _ _
    have opened : SparesKept s (s.opened loc u) := .refl s
    exact .next (opened.finish _ _).settle
  · exact same s

end KeepsSpares

/-! ### Commands that move the engine -/

/-- The Spare Map and the engine of the part are consistent (R113, R115, R117). -/
def SparesOk (s : State) : Prop := MapOk s.spareMap s.migration

namespace SparesOk

theorem of_kept {s t : State} (h : SparesOk s) (k : SparesKept s t) : SparesOk t := by
  obtain ⟨map, engine⟩ := k
  unfold SparesOk
  rw [map, engine]
  exact h

theorem leaves {s : State} (h : SparesOk s) {o : Host.Outcome State Fault Refusal} (k : KeepsSpares s o) :
    Leaves SparesOk o := fun t ht => h.of_kept (k t ht)

variable {s : State} (h : SparesOk s)
include h

theorem settle : SparesOk s.settle := h.of_kept (SparesKept.refl s).settle

theorem settled : Leaves SparesOk (.next s.settle) := .next h.settle

theorem finish (st : Status) (payload : List Byte) : SparesOk (s.finish st payload) :=
  h.of_kept ((SparesKept.refl s).finish st payload)

theorem occur (src : FaultSource) : SparesOk (s.occur src) := h

/-- A migration starts where the engine is IDLE (R116, R117). -/
theorem startMigration (line : Nat) (origin : Origin) {n : Fin 8} (idle : s.migration = none)
    (free : freeSlot s.spareMap = some n) : SparesOk (s.startMigration line origin n) :=
  MapOk.started h line origin idle (freeSlot_some _ _ free)

/-- A release reaches the records and the Fault Unit (R118). -/
theorem releaseLines (n : Nat) : SparesOk (State.releaseLines n s) := by
  induction n generalizing s with
  | zero => exact h
  | succ n ih =>
    unfold State.releaseLines
    split
    · exact h
    · rename_i line _
      have released : SparesOk (s.released line) := h
      exact ih released

/-- The cursor rises, or the migration completes (R121, R124). -/
theorem verified {n : Fin 8} {line cursor : Nat} {origin : Origin} {previous : Option (Fin 8)}
    (hn : s.spareMap.get n = .copying line cursor origin previous) :
    SparesOk (s.verified n line cursor origin previous) := by
  unfold State.verified
  split
  · exact MapOk.advanced h hn ‹_›
  · exact MapOk.completed h hn

/-- The copy restarts, or is abandoned (R122, R123). -/
theorem verifyFailed {n : Fin 8} {line cursor : Nat} {origin : Origin} {previous : Option (Fin 8)}
    (hn : s.spareMap.get n = .copying line cursor origin previous) :
    SparesOk (s.verifyFailed n line origin previous) := by
  unfold State.verifyFailed
  extract_lets retired
  split
  · rename_i k hk
    have restarted : SparesOk (s.restart retired k line origin previous) :=
      MapOk.restarted h hn (freeSlot_some _ _ hk)
    exact restarted.occur _
  · have abandoned : SparesOk { s with
        spareMap := retired, migration := none, records := reopenRecords line s.records } := MapOk.abandoned h hn
    exact (abandoned.occur _).occur _

theorem endVerify (n : Fin 8) (equal : Bool) : SparesOk (s.endVerify n equal) := by
  unfold State.endVerify
  split
  · rename_i hn
    split
    · exact h.verified hn
    · exact h.verifyFailed hn
  · exact h

theorem endOrphanVerify (n : Fin 8) (equal : Bool) : SparesOk (s.endOrphanVerify n equal) := by
  have retired : SparesOk { s with spareMap := s.spareMap.set n (s.spareMap.get n).retiredIfFree } :=
    MapOk.retired h n
  unfold State.endOrphanVerify
  split
  · exact h
  · exact retired.occur _

theorem execMigrationStart : Leaves SparesOk (execMigrationStart s) := by
  unfold Machine.execMigrationStart
  split
  · rename_i may
    obtain ⟨idle, _, _⟩ := s.mayStart_iff.mp may
    split
    · exact .next h
    · split
      · rename_i n free
        exact (h.startMigration _ _ idle free).settled
      · exact (h.releaseLines _).settled
  · exact .next h

/-- A READ's report reaches neither, and the engine then holds the word (R119). -/
theorem execMigrationRead (u : Upset) : Leaves SparesOk (execMigrationRead u s) := by
  unfold Machine.execMigrationRead
  split
  · rename_i a loc location orphan _
    extract_lets t w r
    have opened : SparesKept s t := .refl s
    have reported : SparesOk r := h.of_kept ((SparesKept.keptByTraffic s).directReport opened _ _ _ _ _ _)
    have held : SparesOk (r.hold (heldWord w)) := MapOk.stepped reported _ (fun _ => rfl) fun _ => rfl
    refine settled ?_
    split
    · exact reported
    · exact held
  · exact .next h

theorem execMigrationWrite : Leaves SparesOk (execMigrationWrite s) := by
  unfold Machine.execMigrationWrite
  split
  · rename_i loc w orphan _
    have due : SparesOk (({ s with grant := none } : State).store loc w).verifyDue :=
      MapOk.stepped h _ (fun _ => rfl) fun _ => rfl
    refine settled ?_
    split
    · exact h
    · exact due
  · exact .next h

theorem execMigrationVerify (u : Upset) : Leaves SparesOk (execMigrationVerify u s) := by
  unfold Machine.execMigrationVerify
  split
  · rename_i n loc w orphan _
    have opened : SparesOk (s.opened loc u) := h
    refine settled ?_
    split
    · exact opened.endOrphanVerify n _
    · exact opened.endVerify n _
  · exact .next h

/-- SPARE_LINE starts a migration only where the engine is IDLE (R129). -/
theorem execSpareLine (line : BitVec 24) : Leaves SparesOk (execSpareLine line s) := by
  refine .served _ h ?_
  split
  · exact h.finish _ _
  · split
    · exact h.finish _ _
    · rename_i ready
      have idle : s.migration = none := by
        by_contra copies
        exact ready ((s.spareBusy_iff line.toNat).mpr (.inr (.inr (.inl copies))))
      split
      · exact h.finish _ _
      · rename_i n free
        exact ((h.startMigration _ _ idle free).finish _ _).settle

/-! ### Power-on and the system reset -/

omit h in
theorem poweredOn (s : State) (straps : Straps) (level : Bool) : SparesOk (s.poweredOn straps level) :=
  mapOk_of_free _ reset_spareMap

theorem systemReset : SparesOk s.systemReset := MapOk.reset h

theorem execSystemReset (cause : ResetCause) : Leaves SparesOk (execSystemReset cause s) := by
  have fallen : SparesOk { s.systemReset with rstN := false } := h.systemReset
  have taken : SparesOk { s.systemReset with resetDue := false } := h.systemReset
  cases cause with
  | rstnFalls => exact .guarded h fun _ => fallen.settle
  | resetPart => exact .guarded h fun _ => taken.settle

end SparesOk

/-! ### Every command -/

/-- Every command keeps the map and the engine consistent: those that move the engine do, and the others leave both as
they are. -/
theorem exec_sparesOk (c : Instr) {s : State} (h : SparesOk s) : Leaves SparesOk (exec c s) := by
  have kept := SparesKept.keptByTraffic s
  have same := SparesKept.refl s
  cases c with
  | powerOn straps rstN => exact (SparesOk.poweredOn s straps rstN).settled
  | systemReset cause => exact h.execSystemReset cause
  | migrationStart => exact h.execMigrationStart
  | migrationRead u => exact h.execMigrationRead u
  | migrationWrite => exact h.execMigrationWrite
  | migrationVerify u => exact h.execMigrationVerify u
  | spareLine line => exact h.execSpareLine line
  | rstNRises => exact h.leaves (kept.execRstNRises same)
  | resetCompletes => exact h.leaves (kept.execResetCompletes same)
  | fillBegins => exact h.leaves (kept.execFillBegins same)
  | readRequest | writeRequest | lockedReadRequest | lockedWriteRequest =>
    exact h.leaves (.guarded same fun _ => kept.present same _)
  | writeInsertion => exact h.leaves (kept.execWriteInsertion same)
  | writeCompletion => exact h.leaves (kept.execWriteCompletion same)
  | readBeatRetaken => exact h.leaves (kept.execReadBeatRetaken same)
  | foregroundRead u => exact h.leaves (kept.execForegroundRead same u)
  | lockedReadDecode u => exact h.leaves (kept.execLockedReadDecode same u)
  | drainEnd u => exact h.leaves (kept.execDrainEnd same u)
  | prefetchRead u => exact h.leaves (kept.execPrefetchRead same u)
  | fillWrite => exact h.leaves (kept.execFillWrite same)
  | scrubWord u => exact h.leaves (.execScrubWord s u)
  | tick => exact h.leaves (.execTick s)
  | lockHoldExpiry => exact h.leaves (.execLockHoldExpiry s)
  | scrubIntervalExpiry => exact h.leaves (.execScrubIntervalExpiry s)
  | characterReceived samples => exact h.leaves (.execCharacterReceived s samples)
  | breakReceived sent => exact h.leaves (.execBreakReceived s sent)
  | parserTakesItem => exact h.leaves (.execParserTakesItem s)
  | frameTimerExpiry | startBitDetected => exact h.leaves (.guarded same fun _ => same)
  | responseSent => exact h.leaves (.execResponseSent s)
  | receiverReturnsToIdle => exact h.leaves (.execReceiverReturnsToIdle s)
  | identify => exact h.leaves (.answered s .identify fun t => identifyBytes t.straps)
  | readStatus => exact h.leaves (.answered s .readStatus State.statusBytes)
  | readFaults => exact h.leaves (.answered s .readFaults State.faultBytes)
  | readSpareMap => exact h.leaves (.answered s .readSpareMap fun t => spareMapBytes t.spareMap)
  | resetPart => exact h.leaves (.answered s .resetPart fun _ => [])
  | clearFaults mask => exact h.leaves (.execClearFaults s mask)
  | releaseMode => exact h.leaves (.execReleaseMode s)
  | readRecords index count => exact h.leaves (.execReadRecords s index count)
  | closeRecord address => exact h.leaves (.execCloseRecord s address)
  | clearRecords => exact h.leaves (.execClearRecords s)
  | scrubStart mode => exact h.leaves (.execScrubStart s mode)
  | scrubStop => exact h.leaves (.execScrubStop s)
  | getSetting item => exact h.leaves (.execGetSetting s item)
  | setSetting item value => exact h.leaves (.execSetSetting s item value)
  | setReaction source value => exact h.leaves (.execSetReaction s source value)
  | inspect location => exact h.leaves (.execInspect s location)
  | inspectRead u => exact h.leaves (.execInspectRead s u)

/-- Settles O56: on an empty queue of commands a step idles, and otherwise it runs the command at the front. -/
theorem spareMapStaysConsistent : Obligations.SpareMapStaysConsistent := by
  intro s t h ht
  unfold step at ht
  split at ht
  · obtain rfl := Host.Outcome.next.inj ht
    exact h
  · rename_i c cs _
    have front : SparesOk (s.withPending cs) := h
    exact exec_sparesOk c front t ht

end Sys2Proof.Machine
end

section
/-! The grants of a copy step (R119 to R124): the READ's report and the held word, the WRITE, and the VERIFY with its
four ends. -/

namespace Sys2Proof.Machine

/-! ### The READ and the WRITE -/

/-- A word that can be used is held encoded (R119). -/
theorem heldWord_usable (w : StoredWord) (h : (decode w).outcome = .clean ∨ (decode w).outcome = .corrected) :
    heldWord w = encoded (decode w).data := by
  rw [heldWord, Decoded.good_of_usable _ h, if_pos rfl]

/-- A word that cannot be used is held marked (R119). -/
theorem heldWord_fails (w : StoredWord) (kind : Detected) (h : (decode w).Fails kind) :
    heldWord w = ⟨w.data, w.code, true⟩ := by
  rw [heldWord, h.not_good, if_neg Bool.false_ne_true, marked]

theorem State.directReport_migration (s : State) (d : Decoded) (a : Nat) (k : Location) (source : Source)
    (repair : Detected → Repair) (fault : Detected → FaultSource) :
    (s.directReport d a k source repair fault).migration = s.migration := by
  obtain ⟨_, engine⟩ := (SparesKept.keptByTraffic s).directReport (.refl s) d a k source repair fault
  exact engine

/-- The engine of a copy in progress with the word held (R119). -/
theorem State.hold_eq (s : State) (w : StoredWord) (m : Migration) (hm : s.migration = some m) :
    s.hold w = { s with migration := some { m with stepDue := .write, held := some w } } := by
  rw [State.hold, hm]
  rfl

/-- The READ grant in general: the report of the decode, and the engine holds the word it forms (R119). -/
theorem exec_migrationRead (s : State) (a loc : Nat) (k : Location) (u : Upset) (m : Migration) (hw : s.mem.wf = true)
    (hg : s.grant = some ⟨.migrationRead a loc k, false⟩) (hm : s.migration = some m) :
    exec (.migrationRead u) s = .next ({ (s.opened loc u).directReport (decode (s.found loc u)) a k .migration
        (fun _ => .moved) backgroundFault with
      migration := some { m with stepDue := .write, held := some (heldWord (s.found loc u)) } } : State).settle := by
  have engine : ((s.opened loc u).directReport (decode (s.found loc u)) a k .migration (fun _ => .moved)
      backgroundFault).migration = some m := (State.directReport_migration _ _ _ _ _ _ _).trans hm
  rw [← State.hold_eq _ _ m engine]
  simp [exec, execMigrationRead, hg, State.opened_read s loc u hw]

/-- The WRITE grant: the word is stored and the VERIFY due (R120). -/
theorem exec_migrationWrite (s : State) (loc : Nat) (w : StoredWord) (m : Migration)
    (hg : s.grant = some ⟨.migrationWrite loc w, false⟩) (hm : s.migration = some m) :
    exec .migrationWrite s = .next ({ s with
      grant := none, mem := s.mem.write loc w, migration := some { m with stepDue := .verify } } : State).settle := by
  simp [exec, execMigrationWrite, hg, State.store, State.verifyDue, hm]

/-- Settles O30: the READ by its decode's outcome, and the WRITE. -/
theorem copyStepReadsAndWrites : Obligations.CopyStepReadsAndWrites := by
  refine ⟨?_, fun s loc w m hw hg hm => ?_⟩
  · intro s a loc k u m hw hg hm w d r holds
    have run : exec (.migrationRead u) s = _ := exec_migrationRead s a loc k u m hw hg hm
    refine ⟨holds_disturbed s loc u hw, fun h => ?_, fun h => ?_, fun kind h => ?_⟩ <;> rw [run]
    · rw [State.directReport_clean _ _ _ _ _ _ _ h, heldWord_usable w (.inl h), decode_clean w h]
      rfl
    · rw [State.directReport_corrected _ _ _ _ _ _ _ h, heldWord_usable w (.inr h)]
      rfl
    · have fails : d.Fails kind := h
      rw [State.directReport_fails _ _ _ _ _ _ _ _ fails, heldWord_fails w kind fails, fails.backgroundFault]
      rfl
  · refine ⟨_, exec_migrationWrite s loc w m hg hm, Memory.read_write_same _ _ _ hw, fun l hl => ?_⟩
    exact Memory.read_write_other _ _ _ _ (Ne.symm hl)

/-! ### The VERIFY -/

/-- The VERIFY grant in general: the words are compared in all 40 bits (R121). -/
theorem exec_migrationVerify (s : State) (n : Fin 8) (loc : Nat) (w : StoredWord) (u : Upset) (hw : s.mem.wf = true)
    (hg : s.grant = some ⟨.migrationVerify n loc w, false⟩) :
    exec (.migrationVerify u) s = .next ((s.opened loc u).endVerify n (s.found loc u = w)).settle := by
  simp [exec, execMigrationVerify, hg, State.opened_read s loc u hw]

/-- A VERIFY that finds the words equal ends the copy step (R121). -/
theorem exec_migrationVerify_equal (s : State) (n : Fin 8) (loc : Nat) (w : StoredWord) (u : Upset)
    (line cursor : Nat) (origin : Origin) (previous : Option (Fin 8)) (hw : s.mem.wf = true)
    (hg : s.grant = some ⟨.migrationVerify n loc w, false⟩)
    (hn : s.spareMap.get n = .copying line cursor origin previous) (h : s.found loc u = w) :
    exec (.migrationVerify u) s = .next ((s.opened loc u).verified n line cursor origin previous).settle := by
  have copying : (s.opened loc u).spareMap.get n = .copying line cursor origin previous := hn
  rw [exec_migrationVerify s n loc w u hw hg, decide_eq_true h, State.endVerify, copying]
  rfl

/-- A VERIFY that finds them different retires the slot (R122). -/
theorem exec_migrationVerify_different (s : State) (n : Fin 8) (loc : Nat) (w : StoredWord) (u : Upset)
    (line cursor : Nat) (origin : Origin) (previous : Option (Fin 8)) (hw : s.mem.wf = true)
    (hg : s.grant = some ⟨.migrationVerify n loc w, false⟩)
    (hn : s.spareMap.get n = .copying line cursor origin previous) (h : s.found loc u ≠ w) :
    exec (.migrationVerify u) s = .next ((s.opened loc u).verifyFailed n line origin previous).settle := by
  have copying : (s.opened loc u).spareMap.get n = .copying line cursor origin previous := hn
  rw [exec_migrationVerify s n loc w u hw hg, decide_eq_false h, State.endVerify, copying]
  rfl

/-- The retirement of a COPYING slot leaves the same slots FREE (R122). -/
theorem retire_free_iff (map : PerSlot SpareEntry) (n k : Fin 8) (line cursor : Nat) (origin : Origin)
    (previous : Option (Fin 8)) (hn : map.get n = .copying line cursor origin previous) :
    (map.set n .retired).get k = .free ↔ map.get k = .free := by
  rw [PerSlot.get_set]
  split
  · rename_i e
    simp [e, hn]
  · rfl

/-- Below the line's last word the cursor rises (R121). -/
theorem State.verified_next (s : State) (n : Fin 8) (line cursor : Nat) (origin : Origin) (previous : Option (Fin 8))
    (m : Migration) (hm : s.migration = some m) (hc : cursor + 1 < 8) :
    s.verified n line cursor origin previous = { s with
      spareMap := s.spareMap.set n (.copying line (cursor + 1) origin previous),
      migration := some { m with stepDue := .read, held := none } } := by
  rw [State.verified, if_pos hc, hm]
  rfl

/-- At the line's last word the migration completes (R124). -/
theorem State.verified_last (s : State) (n : Fin 8) (line : Nat) (origin : Origin) (previous : Option (Fin 8)) :
    s.verified n line 7 origin previous = s.completeMigration n line origin previous := rfl

/-- The copy restarts in the slot found (R122). -/
theorem State.verifyFailed_restarts (s : State) (n k : Fin 8) (line : Nat) (origin : Origin) (previous : Option (Fin 8))
    (m : Migration) (hm : s.migration = some m) (hk : freeSlot (s.spareMap.set n .retired) = some k) :
    s.verifyFailed n line origin previous = ({ s with
      spareMap := (s.spareMap.set n .retired).set k (.copying line 0 origin previous),
      migration := some { m with slot := k, stepDue := .read, held := none } } : State).occur .migrationFailed := by
  simp only [State.verifyFailed, hk, State.restart, hm]
  rfl

/-- Where no slot is FREE the copy is abandoned (R123). -/
theorem State.verifyFailed_abandons (s : State) (n : Fin 8) (line : Nat) (origin : Origin) (previous : Option (Fin 8))
    (hk : freeSlot (s.spareMap.set n .retired) = none) :
    s.verifyFailed n line origin previous = (({ s with
      spareMap := s.spareMap.set n .retired, migration := none, records := reopenRecords line s.records } : State).occur
        .migrationFailed).occur .spareExhausted := by
  simp only [State.verifyFailed, hk]

/-- Settles O31: equal words by the cursor, different words by whether a slot is FREE. -/
theorem copyStepVerifies : Obligations.CopyStepVerifies := by
  intro s n loc w u m line cursor origin previous hw hg hm copying r
  have equal := exec_migrationVerify_equal s n loc w u line cursor origin previous hw hg copying
  have different := exec_migrationVerify_different s n loc w u line cursor origin previous hw hg copying
  have free_iff (k : Fin 8) := retire_free_iff s.spareMap n k line cursor origin previous copying
  refine ⟨fun h hc => ?_, fun h hc => ?_, fun h k hk lowest => ?_, fun h full => ?_⟩
  · rw [equal h, State.verified_next (s.opened loc u) n line cursor origin previous m hm hc]
    rfl
  · subst hc
    refine ⟨completedMap s.spareMap n line origin previous, ?_, completedMap_get_same _ _ _ _ _,
      fun k hk => completedMap_get_other _ _ _ _ _ _ hk⟩
    rw [equal h, State.verified_last, State.completeMigration, ← spareRecords_eq]
    rfl
  · have found : freeSlot (s.spareMap.set n .retired) = some k :=
      freeSlot_of_lowest _ k ((free_iff k).mpr hk) fun j hj => lowest j ((free_iff j).mp hj)
    rw [different h, State.verifyFailed_restarts (s.opened loc u) n k line origin previous m hm found]
    rfl
  · have no_slot : freeSlot (s.spareMap.set n .retired) = none :=
      freeSlot_of_none _ fun j hj => full j ((free_iff j).mp hj)
    rw [different h, State.verifyFailed_abandons (s.opened loc u) n line origin previous no_slot, ← reopenRecords_eq]
    rfl

end Sys2Proof.Machine
end

section
/-! The fill's write (R135), and the scrub's cursors and pacer (R142, R143). -/

namespace Sys2Proof.Machine

/-! ### The fill's write -/

/-- After a fill write the location holds zero in all 40 bits, and every other location what it held (R135). -/
theorem holds_fillAt (m : Memory) (loc : Nat) (h : m.wf = true) : Holds (m.fillAt loc) m loc ⟨0, 0, false⟩ :=
  ⟨m.read_fillAt_same loc h, fun l hl => m.read_fillAt_other loc l hl.symm⟩

/-- A running fill goes one location on, and is DONE at P (R135). -/
theorem Fill.advanced_filling (f : Fill) (populated : Nat) (h : f.filling = true) :
    f.advanced populated = ⟨decide (f.watermark + 1 < populated), f.watermark + 1, f.due⟩ := by
  rw [Fill.advanced, h, Bool.true_and]

/-- FILL_WRITE in general: zero at the location granted, and the fill goes on (R135). -/
theorem exec_fillWrite (s : State) (loc : Nat) (o : Bool) (hg : s.grant = some ⟨.fill loc, o⟩) :
    exec .fillWrite s = .next ({ s with
      grant := none, mem := s.mem.fillAt loc, fill := s.fill.advanced s.straps.populated } : State).settle := by
  simp only [exec, execFillWrite, hg]

/-- Settles O19: the location written is the watermark, and the fill is running. -/
theorem fillWrites : Obligations.FillWrites := by
  intro s o hm hg hf
  refine ⟨_, ?_, holds_fillAt s.mem s.fill.watermark hm⟩
  rw [exec_fillWrite s _ o hg, Fill.advanced_filling _ _ hf]

/-! ### The cursors -/

section
variable (sc : Scrub) (mode : ScrubMode) (left : Nat) (st : Settings) (lines : Nat)

/-- Within a line the next word is due (R142). -/
theorem Scrub.advance_word (run : sc.run = .running mode (.sweeping left)) (h : sc.word < 7) :
    sc.advance st lines = { sc with word := sc.word + 1 } := by
  simp only [Scrub.advance, run, if_pos h]

/-- After a line's last word the line is done, and one line fewer is left in the block (R142). -/
theorem Scrub.advance_line (run : sc.run = .running mode (.sweeping left)) (h : sc.word = 7) :
    sc.advance st lines = sc.lineDone mode (left - 1) st lines := by
  simp only [Scrub.advance, run, h, if_neg (Nat.lt_irrefl 7)]

/-- Within a block the next line is due (R142). -/
theorem Scrub.lineDone_next (h : sc.line < st.scrubEndLine) (hl : left ≠ 0) :
    sc.lineDone mode left st lines =
      { sc with word := 0, line := sc.line + 1, run := .running mode (.sweeping left) } := by
  simp only [Scrub.lineDone, if_pos h, if_neg hl]

/-- At the end of a block the scrub rests at the next line (R142). -/
theorem Scrub.lineDone_block (h : sc.line < st.scrubEndLine) :
    sc.lineDone mode 0 st lines = { sc with word := 0, line := sc.line + 1 }.rest mode st := by
  simp only [Scrub.lineDone, if_pos h, reduceIte]

/-- At the end of a SINGLE pass the scrub stops, one line on while there is one (R142). -/
theorem Scrub.lineDone_single (h : sc.line = st.scrubEndLine) :
    sc.lineDone .single left st lines = { sc with
      word := 0, line := if sc.line + 1 < lines then sc.line + 1 else sc.line, passes := sc.passes + 1,
      run := .stopped } := by
  rw [Scrub.lineDone, if_neg h.not_lt, singleEnd]

/-- At the end of a CONTINUOUS pass the scrub rests at the first line, with no word skipped yet (R142). -/
theorem Scrub.lineDone_continuous (h : sc.line = st.scrubEndLine) :
    sc.lineDone .continuous left st lines =
      { sc with word := 0, line := st.scrubStartLine, passes := sc.passes + 1, skipped := 0 }.rest .continuous st := by
  rw [Scrub.lineDone, if_neg h.not_lt]

end

/-! ### The pacer -/

/-- The carry rule loses nothing: a length counts eight eighths, and the accumulator the eighths left over (R143). -/
theorem carry_conserves (base fraction acc : Nat) :
    8 * (carry base fraction acc).1 + (carry base fraction acc).2 = 8 * base + fraction + acc := by
  unfold carry
  split <;> simp only <;> omega

/-- Nor do `n` lengths in a row lose anything (R143). -/
theorem carries_conserves (base fraction : Nat) : ∀ n acc,
    8 * (carries base fraction n acc).1 + (carries base fraction n acc).2 = (8 * base + fraction) * n + acc
  | 0, acc => by simp only [carries, Nat.mul_zero, Nat.zero_add]
  | n + 1, acc => by
    have first := carry_conserves base fraction acc
    have rest := carries_conserves base fraction n (carry base fraction acc).2
    simp only [carries, Nat.mul_succ]
    omega

/-- Eight lengths bring the accumulator back, so they sum to eight bases and the fraction (R143). -/
theorem carries_eight (base fraction acc : Nat) (ha : acc ≤ 7) (hf : fraction ≤ 7) :
    carries base fraction 8 acc = (8 * base + fraction, acc) := by
  have back : (carries base fraction 8 acc).2 = acc := by
    rw [carries_acc base fraction hf 8 acc ha]
    omega
  have total := carries_conserves base fraction 8 acc
  exact Prod.ext (by simp only; omega) back

/-- The length that a rest waits for, and the accumulator it leaves (R143). -/
theorem Scrub.rest_eq (sc : Scrub) (mode : ScrubMode) (st : Settings) :
    sc.rest mode st = { sc with
      run := .running mode
        (.waiting (if 8 ≤ sc.accumulator + st.pacerFraction then st.pacerBase + 1 else st.pacerBase) false),
      accumulator := if 8 ≤ sc.accumulator + st.pacerFraction then sc.accumulator + st.pacerFraction - 8
        else sc.accumulator + st.pacerFraction } := by
  unfold Scrub.rest carry
  split <;> rfl

/-- Settles O34: the ends of a word, a line, a block and a pass, and the pacer's sum. -/
theorem scrubCursorsAdvance : Obligations.ScrubCursorsAdvance := by
  refine ⟨fun sc mode left st lines run => ?_, fun _ _ _ _ => ⟨rfl, rfl⟩, carries_eight, fun _ _ _ => rfl⟩
  intro t sum rests
  have rests_eq (x : Scrub) (hx : x.accumulator = sc.accumulator) : x.rest mode st = rests x := by
    rw [x.rest_eq, hx]
  have line_done (hw : sc.word = 7) : t = sc.lineDone mode (left - 1) st lines :=
    sc.advance_line mode left st lines run hw
  refine ⟨sc.advance_word mode left st lines run, fun hw hl more => ?_, fun hw hl last => ?_, fun hw hl single => ?_,
    fun hw hl continuous => ?_⟩ <;> rw [line_done hw]
  · exact sc.lineDone_next mode (left - 1) st lines hl (by omega)
  · subst last
    rw [Nat.sub_self, sc.lineDone_block mode st lines hl]
    exact rests_eq _ rfl
  · subst single
    exact sc.lineDone_single (left - 1) st lines hl
  · subst continuous
    rw [sc.lineDone_continuous (left - 1) st lines hl]
    exact rests_eq _ rfl

end Sys2Proof.Machine
end

section
/-! SCRUB_START (R140, R179), and SCRUB_STOP with the end of the grant that it waits for (R141, R142, R145, R179). -/

namespace Sys2Proof.Machine

/-! ### SCRUB_START -/

/-- An argument that is neither 0 nor 1 names no mode (R179). -/
theorem scrubMode_none (x : Byte) (h0 : x ≠ 0) (h1 : x ≠ 1) : scrubMode x = none := by
  unfold scrubMode
  split
  · exact absurd (BitVec.eq_of_toNat_eq ‹_›) h0
  · exact absurd (BitVec.eq_of_toNat_eq ‹_›) h1
  · rfl

/-- The two modes by their arguments (R179). -/
theorem scrubMode_some (x : Byte) (mode : ScrubMode) (h : x = 0 ∧ mode = .single ∨ x = 1 ∧ mode = .continuous) :
    scrubMode x = some mode := by
  rcases h with ⟨rfl, rfl⟩ | ⟨rfl, rfl⟩ <;> rfl

/-- What holds a SCRUB_START off (R140). -/
theorem State.scrubBusy_iff (s : State) : s.scrubBusy = true ↔
    s.scrub.run ≠ .stopped ∨ s.fill.filling = true ∨ s.resetInProgress = true := by
  simp [State.scrubBusy, or_assoc]

section
variable (s : State) (x : Byte) (handed : s.handed (.scrubStart x) = true)
include handed

theorem exec_scrubStart_unknown (h : scrubMode x = none) :
    exec (.scrubStart x) s = .next (s.finish .badArgument []) := by
  simp only [exec, execScrubStart, s.serve_handed _ _ handed, h]

variable (mode : ScrubMode) (h : scrubMode x = some mode)
include h

theorem exec_scrubStart_busy (busy : s.scrubBusy = true) :
    exec (.scrubStart x) s = .next (s.finish .busy []) := by
  simp only [exec, execScrubStart, s.serve_handed _ _ handed, h, if_pos busy]

theorem exec_scrubStart_ready (ready : ¬ s.scrubBusy = true) :
    exec (.scrubStart x) s = .next ((s.startScrub mode).finish .ok []).settle := by
  simp only [exec, execScrubStart, s.serve_handed _ _ handed, h, if_neg ready]

end

/-! ### SCRUB_STOP -/

/-- A SCRUB_STOP waits where it is the command in execution and waits (R145). -/
theorem State.stopWaits_iff (s : State) : s.stopWaits = true ↔ ∃ b w, s.executing = some ⟨.scrubStop, b, w, true⟩ := by
  unfold State.stopWaits
  cases s.executing with
  | none => simp
  | some e =>
    obtain ⟨c, b, w, waiting⟩ := e
    simp

/-- The SCRUB grants in progress, whatever run they are of (R179). -/
theorem State.scrubInProgress_iff (s : State) :
    s.scrubInProgress = true ↔ ∃ a loc k o, s.grant = some ⟨.scrub a loc k, o⟩ := by
  constructor
  · intro h
    unfold State.scrubInProgress at h
    split at h
    · exact ⟨_, _, _, _, ‹_›⟩
    · exact (Bool.false_ne_true h).elim
  · rintro ⟨a, loc, k, o, hg⟩
    simp only [State.scrubInProgress, hg]

/-- A SCRUB grant is of the present run unless a system reset has left it to finish (R179). -/
theorem State.scrubGranted_scrub (s : State) (a loc : Nat) (k : Location) (o : Bool)
    (hg : s.grant = some ⟨.scrub a loc k, o⟩) : s.scrubGranted = !o := by
  simp only [State.scrubGranted, hg]

section
variable (s : State) (handed : s.handed .scrubStop = true)
include handed

/-- Without a SCRUB grant the scrub is STOPPED at once (R145). -/
theorem exec_scrubStop_free (free : ∀ a loc k o, s.grant ≠ some ⟨.scrub a loc k, o⟩) :
    exec .scrubStop s = .next (({ s with scrub := s.scrub.stop } : State).finish .ok []).settle := by
  have not_in_progress : ¬ s.scrubInProgress = true := by
    rw [s.scrubInProgress_iff]
    rintro ⟨a, loc, k, o, hg⟩
    exact free a loc k o hg
  have not_granted : ¬ s.scrubGranted = true := mt s.scrubInProgress_of_granted not_in_progress
  simp only [exec, execScrubStop, s.serve_handed _ _ handed, if_neg not_granted]
  rw [if_neg not_in_progress]

/-- With a grant of the present run the command waits (R145). -/
theorem exec_scrubStop_present (a loc : Nat) (k : Location) (hg : s.grant = some ⟨.scrub a loc k, false⟩) :
    exec .scrubStop s = .next s.waitForGrant := by
  have granted : s.scrubGranted = true := s.scrubGranted_scrub a loc k false hg
  simp only [exec, execScrubStop, s.serve_handed _ _ handed, if_pos granted]

/-- With a grant that a system reset has left to finish the scrub is STOPPED and the command waits (R179, log 28). -/
theorem exec_scrubStop_abandoned (a loc : Nat) (k : Location) (hg : s.grant = some ⟨.scrub a loc k, true⟩) :
    exec .scrubStop s = .next ({ s with scrub := s.scrub.stop } : State).waitForGrant := by
  have not_granted : ¬ s.scrubGranted = true := Bool.eq_false_iff.mp (s.scrubGranted_scrub a loc k true hg)
  have in_progress : s.scrubInProgress = true := s.scrubInProgress_iff.mpr ⟨a, loc, k, true, hg⟩
  simp only [exec, execScrubStop, s.serve_handed _ _ handed, if_neg not_granted]
  rw [if_pos in_progress]

end

/-! ### The grant's end -/

/-- Where a SCRUB_STOP waits, the end of the SCRUB grant stops the scrub and answers (R145). -/
theorem State.endScrubGrant_stop (s : State) (h : s.stopWaits = true) :
    s.endScrubGrant = ({ s with scrub := s.scrub.stop } : State).finish .ok [] := by
  rw [State.endScrubGrant, if_pos h]

/-- A scrub's word that a SCRUB_STOP waits for is scrubbed and reported, the cursors move on where the grant is of the
present run, and the scrub is STOPPED (R141, R142, R145, log 24). -/
theorem exec_scrubWord_stopped (s : State) (a loc : Nat) (k : Location) (o : Bool) (u : Upset) (hm : s.mem.wf = true)
    (hg : s.grant = some ⟨.scrub a loc k, o⟩) (hw : s.stopWaits = true) :
    ∃ m, exec (.scrubWord u) s =
        (let t := ({ s with mem := m } : State).scrubReport (decode (s.found loc u)) a k
        .next (({ t with
          grant := none,
          scrub := (if o then t.scrub else t.scrub.advance t.settings t.straps.visibleLines).stop } : State).finish
            .ok []).settle) ∧
      Holds m s.mem loc (scrubbedWord (s.found loc u)) := by
  obtain ⟨m, he, hh⟩ := exec_scrubWord s a loc k o u hm hg
  refine ⟨m, he.trans ?_, hh⟩
  have waits : (({ s with mem := m } : State).scrubReport (decode (s.found loc u)) a k).stopWaits = true :=
    (State.stopWaits_congr s _ (State.scrubReport_executing { s with mem := m } _ _ _)).trans hw
  cases o <;> exact congrArg (fun x : State => Host.Outcome.next x.settle) (State.endScrubGrant_stop _ waits)

/-- A scrub reports nothing of a CLEAN word (R141). -/
theorem State.scrubReport_clean (s : State) (d : Decoded) (a : Nat) (k : Location) (h : d.outcome = .clean) :
    s.scrubReport d a k = s := by
  rw [s.scrubReport_direct d a k (by simp [h]), s.directReport_clean d a k _ _ _ h]

/-- A scrub's CORRECTED word arrives with repair DIRECT (R141, log 32). -/
theorem State.scrubReport_corrected (s : State) (d : Decoded) (a : Nat) (k : Location) (h : d.outcome = .corrected) :
    s.scrubReport d a k =
      (s.arrive ⟨a, k, .corrected, d.bit, d.syndrome, .scrub, .direct, false⟩).occur .corrected := by
  rw [s.scrubReport_direct d a k (by simp [h]), s.directReport_corrected d a k _ _ _ h]
  rfl

/-- A scrub's UNCORRECTABLE word arrives faulted, without a repair (R141). -/
theorem State.scrubReport_uncorrectable (s : State) (w : StoredWord) (a : Nat) (k : Location)
    (h : (decode w).outcome = .uncorrectable) : s.scrubReport (decode w) a k =
      (s.arrive ⟨a, k, .uncorrectable, none, (decode w).syndrome, .scrub, .none, true⟩).occur
        .backgroundUncorrectable := by
  rw [s.scrubReport_direct _ a k (by simp [h]), s.directReport_fails w a k _ _ _ .uncorrectable (.inl ⟨h, rfl⟩)]
  rfl

/-- Settles O47: SCRUB_START in the rule's order, SCRUB_STOP by the grant in progress, and the end of the grant it
waits for by the outcome of the decode. -/
theorem scrubCommands : Obligations.ScrubCommands := by
  refine ⟨fun s x handed => ?_, fun s => ⟨s.stopWaits_iff, s.scrubInProgress_iff⟩,
    fun s handed => ⟨exec_scrubStop_free s handed, exec_scrubStop_present s handed, exec_scrubStop_abandoned s handed⟩,
    fun s a loc k o u hm hg hw => ?_⟩
  · intro busy
    refine ⟨fun h0 h1 => exec_scrubStart_unknown s x handed (scrubMode_none x h0 h1), fun known hb => ?_,
      fun mode named ready => ?_⟩
    · obtain ⟨mode, named⟩ : ∃ mode, scrubMode x = some mode := by
        rcases known with rfl | rfl
        exacts [⟨.single, rfl⟩, ⟨.continuous, rfl⟩]
      exact exec_scrubStart_busy s x handed mode named (s.scrubBusy_iff.mpr hb)
    · exact exec_scrubStart_ready s x handed mode (scrubMode_some x mode named) (mt s.scrubBusy_iff.mp ready)
  · intro w d ends
    obtain ⟨m, he, hh⟩ := exec_scrubWord_stopped s a loc k o u hm hg hw
    refine ⟨fun h => ?_, fun h => ?_, fun h => ?_, fun h => ?_⟩ <;> rw [scrubbedWord, h] at hh <;>
      refine ⟨m, ?_, hh⟩ <;> rw [he]
    · rw [State.scrubReport_clean _ _ _ _ h]
      rfl
    · rw [State.scrubReport_corrected _ _ _ _ h]
      rfl
    · rw [State.scrubReport_uncorrectable _ _ _ _ h]
      rfl
    · rw [State.scrubReport_poisoned _ _ _ _ h]
      rfl

end Sys2Proof.Machine
end

section
/-! GET_SETTING and SET_SETTING (R138, R182): the item codes, the settings table, what putting a value changes, and the
checks of the two commands. -/

namespace Sys2Proof

/-! ### The items of the reactions -/

theorem FaultSource.item_toNat (src : FaultSource) : src.item.toNat = 0x21 + src.place := by
  cases src <;> rfl

theorem FaultSource.place_le (src : FaultSource) : src.place ≤ 8 := by
  cases src <;> decide

/-- Every place from 0 to 8 is a source's (R150). -/
theorem FaultSource.exists_place (n : Nat) (h : n ≤ 8) : ∃ src : FaultSource, src.place = n := by
  have hn : n < FaultSource.all.length := Nat.lt_succ_of_le h
  refine ⟨FaultSource.all[n], ?_⟩
  interval_cases n <;> rfl

/-- The items of the reactions are those of the nine sources (R182). -/
theorem isReactionItem_iff (item : Byte) : isReactionItem item = true ↔ ∃ src : FaultSource, src.item = item := by
  simp only [isReactionItem, Bool.and_eq_true, decide_eq_true_eq]
  constructor
  · rintro ⟨low, high⟩
    obtain ⟨src, hs⟩ := FaultSource.exists_place (item.toNat - 0x21) (by omega)
    refine ⟨src, BitVec.eq_of_toNat_eq ?_⟩
    rw [src.item_toNat, hs]
    omega
  · rintro ⟨src, rfl⟩
    have := src.place_le
    rw [src.item_toNat]
    omega

/-- The item of a source is no item of the first seventeen (R182). -/
theorem FaultSource.item_beyond (src : FaultSource) : ¬ (1 ≤ src.item.toNat ∧ src.item.toNat ≤ 0x11) := by
  rw [src.item_toNat]
  omega

end Sys2Proof

namespace Sys2Proof.Machine

/-! ### The source of an item -/

/-- The source found for an item is the one whose item it is (R182). -/
theorem reactionSource_eq_some_iff (item : Byte) (src : FaultSource) :
    reactionSource item = some src ↔ src.item = item := by
  constructor
  · intro h
    simpa using List.find?_some (p := fun src : FaultSource => decide (src.item = item)) h
  · rintro rfl
    cases src <;> rfl

/-- No source is found for an item outside the codes of the reactions (R182). -/
theorem reactionSource_eq_none (item : Byte) (h : ¬ (0x21 ≤ item.toNat ∧ item.toNat ≤ 0x29)) :
    reactionSource item = none := by
  rw [Option.eq_none_iff_forall_ne_some]
  intro src hs
  have range := (isReactionItem_iff item).mpr ⟨src, (reactionSource_eq_some_iff item src).mp hs⟩
  exact h (by simpa [isReactionItem] using range)

/-! ### The value of an item -/

/-- The values of the items 0x01 to 0x11, in the order of their codes (R182). -/
def Settings.row (st : Settings) : List Nat :=
  [st.posting.encode, st.rangePolicy.encode, st.guardLo.toNat, st.guardHi.toNat, bitNat st.readAhead, st.lockLimit,
    st.promoteThreshold, bitNat st.spareOnUncorrectable, st.escalate.toNat, st.scrubStartLine, st.scrubEndLine,
    st.scrubBlock, st.pacerBase, st.pacerFraction, st.tickDivisor, st.linkDivisor, st.linkFraction]

/-- The value of an item of the first seventeen stands in the row at its code less 1. -/
theorem Settings.value_row (st : Settings) (item : Byte) (h : 1 ≤ item.toNat ∧ item.toNat ≤ 0x11) :
    st.value item = st.row[item.toNat - 1]? := by
  obtain ⟨low, high⟩ := h
  unfold Settings.value
  generalize item.toNat = code at low high ⊢
  interval_cases code <;> rfl

/-- The value of any other item is the rank of its source's reaction (R182). -/
theorem Settings.value_reaction (st : Settings) (item : Byte) (h : ¬ (1 ≤ item.toNat ∧ item.toNat ≤ 0x11)) :
    st.value item = (reactionSource item).map fun src => (st.reactions.get src).rank := by
  unfold Settings.value
  split
  case h_18 => rfl
  all_goals omega

theorem Settings.value_item (st : Settings) (src : FaultSource) :
    st.value src.item = some (st.reactions.get src).rank := by
  rw [st.value_reaction _ src.item_beyond, (reactionSource_eq_some_iff _ src).mpr rfl, Option.map_some]

/-- An item outside both ranges of codes has no value (R182). -/
theorem Settings.value_none (st : Settings) (item : Byte) (h : ¬ (1 ≤ item.toNat ∧ item.toNat ≤ 0x11))
    (hr : ¬ (0x21 ≤ item.toNat ∧ item.toNat ≤ 0x29)) : st.value item = none := by
  rw [st.value_reaction item h, reactionSource_eq_none item hr, Option.map_none]

/-! ### A value put -/

/-- The range check of an item (R182, check 1). -/
theorem ite_within {α : Type} (lo hi v : Nat) (a b : α) :
    (if within lo hi v then a else b) = if lo ≤ v ∧ v ≤ hi then a else b :=
  if_congr (within_iff lo hi v) rfl rfl

theorem Reaction.ofRank_eq_some_iff (v : Nat) (r : Reaction) : Reaction.ofRank v = some r ↔ r.rank = v := by
  constructor
  · intro h
    unfold Reaction.ofRank at h
    split at h <;> cases h <;> rfl
  · rintro rfl
    cases r <;> rfl

theorem Reaction.rank_le (r : Reaction) : r.rank ≤ 4 := by
  cases r <;> decide

/-- An item that is none of the first seventeen is put at its source's reaction (R182). -/
theorem Settings.put_reaction_iff (st su : Settings) (lines : Nat) (item : Byte) (v : Nat)
    (h : ¬ (1 ≤ item.toNat ∧ item.toNat ≤ 0x11)) : st.put lines item v = some su ↔
      ∃ src r, src.item = item ∧ r.rank = v ∧ su = { st with reactions := st.reactions.set src r } := by
  simp only [← reactionSource_eq_some_iff, ← Reaction.ofRank_eq_some_iff]
  unfold Settings.put
  split
  case h_18 =>
    cases reactionSource item <;> cases Reaction.ofRank v <;> simp [eq_comm]
  all_goals omega

theorem PostingMode.encode_of_le (v : Nat) (h : v ≤ 1) :
    (if v = 0 then PostingMode.posted else .through).encode = v := by
  interval_cases v <;> rfl

theorem RangePolicy.encode_of_le (v : Nat) (h : v ≤ 1) :
    (if v = 0 then RangePolicy.error else .quiet).encode = v := by
  interval_cases v <;> rfl

theorem bitNat_of_le (v : Nat) (h : v ≤ 1) : bitNat (decide (v = 1)) = v := by
  interval_cases v <;> rfl

/-- A value put at an item of the first seventeen replaces the item's value in the row, and leaves the rest of the row
and the reactions as they are (R138, R182). -/
theorem Settings.put_row {st su : Settings} {lines : Nat} {item : Byte} {v : Nat}
    (h : 1 ≤ item.toNat ∧ item.toNat ≤ 0x11) (hput : st.put lines item v = some su) :
    su.row = st.row.set (item.toNat - 1) v ∧ su.reactions = st.reactions := by
  unfold Settings.put at hput
  split at hput
  case h_18 =>
    simp only [imp_false] at *
    omega
  all_goals
    rename_i code
    obtain ⟨hv, hst⟩ := Option.ite_none_right_eq_some.mp hput
    obtain rfl := Option.some.inj hst
    obtain ⟨_, high⟩ := (within_iff _ _ _).mp hv
    refine ⟨?_, rfl⟩
    rw [code]
  case h_1 => simp [Settings.row, PostingMode.encode_of_le v high]
  case h_2 => simp [Settings.row, RangePolicy.encode_of_le v high]
  case h_5 | h_8 => simp [Settings.row, bitNat_of_le v high]
  case h_3 | h_4 | h_9 => simp [Settings.row, Nat.mod_eq_of_lt (Nat.lt_succ_of_le high)]
  all_goals rfl

/-- A value that is put is the one that is got (R182). -/
theorem Settings.value_put_same {st su : Settings} {lines : Nat} {item : Byte} {v : Nat}
    (hput : st.put lines item v = some su) : su.value item = some v := by
  by_cases h : 1 ≤ item.toNat ∧ item.toNat ≤ 0x11
  · have in_row : item.toNat - 1 < st.row.length := by
      show item.toNat - 1 < 17
      omega
    rw [su.value_row item h, (Settings.put_row h hput).1, List.getElem?_set_self in_row]
  · obtain ⟨src, r, rfl, rfl, rfl⟩ := (st.put_reaction_iff su lines item v h).mp hput
    rw [Settings.value_item, PerSource.get_set_same]

/-- No other setting changes (R138). -/
theorem Settings.value_put_other {st su : Settings} {lines : Nat} {item other : Byte} {v : Nat}
    (hput : st.put lines item v = some su) (hne : other ≠ item) : su.value other = st.value other := by
  by_cases h : 1 ≤ item.toNat ∧ item.toNat ≤ 0x11 <;> by_cases ho : 1 ≤ other.toNat ∧ other.toNat ≤ 0x11
  · have codes : item.toNat - 1 ≠ other.toNat - 1 := by
      have := mt BitVec.eq_of_toNat_eq hne
      omega
    rw [su.value_row other ho, st.value_row other ho, (Settings.put_row h hput).1, List.getElem?_set_ne codes]
  · rw [su.value_reaction other ho, st.value_reaction other ho, (Settings.put_row h hput).2]
  · obtain ⟨src, r, _, _, rfl⟩ := (st.put_reaction_iff su lines item v h).mp hput
    rw [Settings.value_row _ other ho, st.value_row other ho]
    rfl
  · obtain ⟨src, r, rfl, _, rfl⟩ := (st.put_reaction_iff su lines item v h).mp hput
    rw [Settings.value_reaction _ other ho, st.value_reaction other ho]
    refine Option.map_congr fun k hk => ?_
    have another : k ≠ src := by
      rintro rfl
      exact hne ((reactionSource_eq_some_iff other k).mp hk).symm
    rw [PerSource.get_set_other _ _ _ _ another]

/-- Every reaction has its rank for an encoding (R182). -/
theorem Settings.put_item (st : Settings) (lines v : Nat) (src : FaultSource) (r : Reaction) (hr : r.rank = v) :
    st.put lines src.item v = some { st with reactions := st.reactions.set src r } :=
  (st.put_reaction_iff _ lines _ v src.item_beyond).mpr ⟨src, r, rfl, hr, rfl⟩

/-- A value above 4 is no reaction's (R182). -/
theorem Settings.put_item_none (st : Settings) (lines v : Nat) (src : FaultSource) (hv : 4 < v) :
    st.put lines src.item v = none := by
  rw [Option.eq_none_iff_forall_ne_some]
  intro su hput
  obtain ⟨_, r, _, hr, _⟩ := (st.put_reaction_iff su lines _ v src.item_beyond).mp hput
  have := r.rank_le
  omega

/-- Nothing is put at an item outside both ranges of codes (R182). -/
theorem Settings.put_none (st : Settings) (lines v : Nat) (item : Byte) (h : ¬ (1 ≤ item.toNat ∧ item.toNat ≤ 0x11))
    (hr : ¬ (0x21 ≤ item.toNat ∧ item.toNat ≤ 0x29)) : st.put lines item v = none := by
  rw [Option.eq_none_iff_forall_ne_some]
  intro su hput
  obtain ⟨src, _, hs, _⟩ := (st.put_reaction_iff su lines item v h).mp hput
  exact absurd ((reactionSource_eq_some_iff item src).mpr hs) (by simp [reactionSource_eq_none item hr])

/-! ### The commands -/

/-- A value in four bytes, least significant first (R175). -/
theorem leBytes_four (v : Nat) : leBytes 4 v = [BitVec.ofNat 8 v, BitVec.ofNat 8 (v / 2 ^ 8),
    BitVec.ofNat 8 (v / 2 ^ 16), BitVec.ofNat 8 (v / 2 ^ 24)] := by
  simp [leBytes, Nat.div_div_eq_div_mul]

section
variable (s : State) (item : Byte) (handed : s.handed (.getSetting item) = true)
include handed

theorem exec_getSetting_some (v : Nat) (h : s.settings.value item = some v) :
    exec (.getSetting item) s = .next (s.finish .ok (leBytes 4 v)) := by
  simp only [exec, execGetSetting, s.serve_handed _ _ handed, h]

theorem exec_getSetting_none (h : s.settings.value item = none) :
    exec (.getSetting item) s = .next (s.finish .badArgument []) := by
  simp only [exec, execGetSetting, s.serve_handed _ _ handed, h]

end

/-- The items that do not change while the scrub runs (R138, R182). -/
theorem isScrubItem_iff (item : Byte) : isScrubItem item = true ↔ item = 0x0A ∨ item = 0x0B ∨ item = 0x0C := by
  rw [isScrubItem, within_iff]
  bv_omega

/-- The items whose order is checked are those of the scrub region (R138). -/
theorem isRegionItem_iff (item : Byte) : isRegionItem item = true ↔ isScrubItem item = true ∧ item ≠ 0x0C := by
  rw [isRegionItem, isScrubItem, within_iff, within_iff]
  bv_omega

section
variable (s : State) (item : Byte) (value : Word)

/-- A value outside its item's range is refused first (R182). -/
theorem State.putSetting_refused (h : s.settings.put s.straps.visibleLines item value.toNat = none) :
    s.putSetting item value = (.badArgument, s.settings) := by
  rw [State.putSetting, h]

variable (st : Settings) (h : s.settings.put s.straps.visibleLines item value.toNat = some st)
include h

/-- A scrub item is BUSY while the scrub runs (R138, R182). -/
theorem State.putSetting_busy (hi : isScrubItem item = true) (running : s.scrub.run ≠ .stopped) :
    s.putSetting item value = (.busy, s.settings) := by
  rw [State.putSetting, h]
  simp [hi, running]

/-- An empty scrub region is refused (R138, R182). -/
theorem State.putSetting_empty (hi : isRegionItem item = true) (stopped : s.scrub.run = .stopped)
    (empty : st.scrubEndLine < st.scrubStartLine) : s.putSetting item value = (.badArgument, s.settings) := by
  rw [State.putSetting, h]
  simp [hi, stopped, empty]

/-- A value that passes the three checks is put (R182). -/
theorem State.putSetting_put (idle : isScrubItem item = true → s.scrub.run = .stopped)
    (region : isRegionItem item = true → st.scrubStartLine ≤ st.scrubEndLine) :
    s.putSetting item value = (.ok, st) := by
  have not_busy : ¬ ((isScrubItem item && s.scrub.run ≠ .stopped) = true) := by simpa using idle
  have not_empty : ¬ ((isRegionItem item && decide (st.scrubEndLine < st.scrubStartLine)) = true) := by
    simpa using region
  rw [State.putSetting, h]
  simp only [if_neg not_busy, if_neg not_empty]

end

/-- SET_SETTING by what its checks find (R182). -/
theorem exec_setSetting (s : State) (item : Byte) (value : Word) (handed : s.handed (.setSetting item value) = true)
    (hi : isReactionItem item = false) (status : Status) (st : Settings)
    (h : s.putSetting item value = (status, st)) :
    exec (.setSetting item value) s = .next (({ s with settings := st } : State).finish status []) := by
  simp only [exec, execSetSetting, hi, s.serve_handed _ _ handed, h, Bool.false_eq_true, if_false]

/-- The checks of SET_SETTING in their order, and the value put (R138, R182). -/
theorem setSetting_outcomes (s : State) (item : Byte) (v : Word) (hi : isReactionItem item = false)
    (handed : s.handed (.setSetting item v) = true) :
    let scrubItem : Prop := item = 0x0A ∨ item = 0x0B ∨ item = 0x0C
    (s.settings.put s.straps.visibleLines item v.toNat = none →
      exec (.setSetting item v) s = .next (s.finish .badArgument [])) ∧
    ∀ st, s.settings.put s.straps.visibleLines item v.toNat = some st →
      (scrubItem → s.scrub.run ≠ .stopped → exec (.setSetting item v) s = .next (s.finish .busy [])) ∧
      (scrubItem → s.scrub.run = .stopped → item ≠ 0x0C → st.scrubEndLine < st.scrubStartLine →
        exec (.setSetting item v) s = .next (s.finish .badArgument [])) ∧
      (¬ scrubItem ∨ s.scrub.run = .stopped ∧ (item = 0x0C ∨ st.scrubStartLine ≤ st.scrubEndLine) →
        exec (.setSetting item v) s = .next (({ s with settings := st } : State).finish .ok [])) := by
  intro scrubItem
  have scrub_iff : isScrubItem item = true ↔ scrubItem := isScrubItem_iff item
  have run (status : Status) (st : Settings) := exec_setSetting s item v handed hi status st
  refine ⟨fun h => run _ _ (s.putSetting_refused item v h), fun st h => ⟨fun hs running => ?_,
    fun hs stopped hb empty => ?_, fun passes => ?_⟩⟩
  · exact run _ _ (s.putSetting_busy item v st h (scrub_iff.mpr hs) running)
  · have region : isRegionItem item = true := (isRegionItem_iff item).mpr ⟨scrub_iff.mpr hs, hb⟩
    exact run _ _ (s.putSetting_empty item v st h region stopped empty)
  · refine run _ _ (s.putSetting_put item v st h (fun hs => ?_) fun hr => ?_)
    · rcases passes with other | ⟨stopped, _⟩
      exacts [absurd (scrub_iff.mp hs) other, stopped]
    · obtain ⟨hs, hb⟩ := (isRegionItem_iff item).mp hr
      rcases passes with other | ⟨_, block | ordered⟩
      exacts [absurd (scrub_iff.mp hs) other, absurd block hb, ordered]

/-- Settles O48: the item codes, the two commands, the value put and got, and the table item by item. -/
theorem settingsReadAndWritten : Obligations.SettingsReadAndWritten := by
  refine ⟨⟨rfl, isReactionItem_iff⟩, fun s item handed => ⟨fun v h => ?_, exec_getSetting_none s item handed⟩,
    setSetting_outcomes,
    fun st su lines item v h => ⟨Settings.value_put_same h, fun other => Settings.value_put_other h⟩,
    fun st => ⟨rfl, rfl, rfl, rfl, rfl, rfl, rfl, rfl, rfl, rfl, rfl, rfl, rfl, rfl, rfl, rfl, rfl,
      fun src => ⟨rfl, st.value_item src⟩, st.value_none⟩,
    fun st lines v => ?_⟩
  · rw [exec_getSetting_some s item handed v h, leBytes_four]
  · refine ⟨ite_within .., ite_within .., ite_within .., ite_within .., ite_within .., ite_within .., ite_within ..,
      ite_within .., ite_within .., ite_within .., ite_within .., ite_within .., ite_within .., ite_within ..,
      ite_within .., ite_within .., ite_within .., ?_⟩
    exact ⟨fun src r => st.put_item lines v src r, fun src => st.put_item_none lines v src, rfl,
      fun item => st.put_none lines v item⟩

end Sys2Proof.Machine
end

section
/-! The Fault Unit's own operations (R149, R152 to R160): what brings the device mode up or lowers it, what ALERT_N
follows, and that each operation keeps the unit consistent. -/

namespace Sys2Proof.Machine

/-! ### The device mode -/

theorem DeviceMode.higher_normal (m : DeviceMode) : m.higher .normal = m := by
  cases m <;> rfl

namespace FaultUnit

variable (fu : FaultUnit)

/-- A refresh never lowers the device mode (R155). -/
theorem mode_le_refreshed : fu.mode.rank ≤ fu.refreshed.mode.rank := by
  show _ ≤ (fu.mode.higher fu.demanded).rank
  rw [DeviceMode.higher_rank]
  exact Nat.le_max_left _ _

/-- After a refresh no source demands more than the device mode (R155). -/
theorem demand_le_refreshed (src : FaultSource) :
    (fu.refreshed.sources.get src).demand.rank ≤ fu.refreshed.mode.rank := by
  show _ ≤ (fu.mode.higher fu.demanded).rank
  rw [DeviceMode.higher_rank]
  exact Nat.le_trans (fu.demand_le src) (Nat.le_max_right _ _)

/-- A refresh brings the device mode no higher than a source demands (R155). -/
theorem refreshed_mode_cases :
    fu.refreshed.mode = fu.mode ∨ ∃ src, (fu.refreshed.sources.get src).demand = fu.refreshed.mode := by
  show fu.mode.higher fu.demanded = _ ∨ ∃ src, (fu.sources.get src).demand = fu.mode.higher fu.demanded
  rcases fu.demanded_cases with none_demands | ⟨src, demands⟩
  · rw [none_demands, DeviceMode.higher_normal]
    exact .inl rfl
  · rcases fu.mode.higher_cases fu.demanded with kept | raised
    · exact .inl kept
    · exact .inr ⟨src, demands.trans raised.symm⟩

/-! ### Each operation by its sources -/

/-- A refreshed unit with one source's record replaced. -/
theorem refreshed_get (src k : FaultSource) (r : FaultRecord) :
    (refreshed { fu with sources := fu.sources.set src r }).sources.get k =
      if k = src then r else fu.sources.get k :=
  fu.sources.get_set src k r

/-- CLEAR_FAULTS by source (R158). -/
theorem clear_get (configured : PerSource Reaction) (mask : BitVec 16) (src : FaultSource) :
    (fu.clear configured mask).sources.get src =
      if mask.getLsbD src.place then .cleared (configured.get src) else fu.sources.get src :=
  PerSource.get_make _ src

/-- A system reset by source (R160). -/
theorem systemReset_get (configured : PerSource Reaction) (src : FaultSource) :
    (fu.systemReset configured).sources.get src = .cleared (configured.get src) :=
  PerSource.get_make _ src

/-! ### Each operation keeps the unit consistent -/

variable {fu} {configured : PerSource Reaction}

/-- A source whose configured reaction changes: a CLEAR one takes it, and a SET one is at least at it (R154). -/
theorem sourceOk_reacted {f : FaultRecord} {old : Reaction} (r : Reaction) (h : SourceOk f old) :
    SourceOk (reacted f r) r := by
  obtain ⟨_, count, bound, _, noted⟩ := h
  unfold reacted
  by_cases on : f.set = true
  · rw [if_pos on]
    split
    · rename_i rises
      exact ⟨Nat.le_refl _, count, bound, fun off => (Bool.false_ne_true (off.symm.trans on)).elim,
        fun _ => Nat.le_trans (noted on) rises.le⟩
    · rename_i stays
      exact ⟨Nat.le_of_not_lt stays, count, bound, fun off => (Bool.false_ne_true (off.symm.trans on)).elim, noted⟩
  · rw [if_neg on]
    exact ⟨Nat.le_refl _, count, bound, fun _ => rfl, fun set => (on set).elim⟩

/-- A SET_SETTING of a reaction (R154). -/
theorem react_ok (h : FaultsOk fu configured) (src : FaultSource) (r : Reaction) :
    FaultsOk (fu.react src r) (configured.set src r) := by
  refine refreshed_ok _ _ fun k => ?_
  rw [PerSource.get_set, PerSource.get_set]
  split
  · exact sourceOk_reacted r (h.1 src).1
  · exact (h.1 k).1

/-- CLEAR_FAULTS (R158): a source that is cleared demands nothing, and the device mode stays. -/
theorem clear_ok (h : FaultsOk fu configured) (mask : BitVec 16) : FaultsOk (fu.clear configured mask) configured := by
  refine ⟨fun src => ?_, FaultUnit.alerting_iff _⟩
  rw [clear_get]
  split
  · exact ⟨sourceOk_cleared _, Nat.zero_le _⟩
  · exact h.1 src

/-- RELEASE_MODE (R156). -/
theorem release_ok (h : FaultsOk fu configured) : FaultsOk fu.release configured :=
  ⟨fun src => ⟨(h.1 src).1, fu.demand_le src⟩, h.2⟩

variable (fu configured) in
/-- A system reset leaves every source CLEAR (R160). -/
theorem systemReset_ok : FaultsOk (fu.systemReset configured) configured := by
  refine ⟨fun src => ?_, fun asserted => (Bool.false_ne_true asserted).elim, ?_⟩
  · rw [systemReset_get]
    exact ⟨sourceOk_cleared _, Nat.zero_le _⟩
  · rintro ⟨src, on, _⟩
    rw [systemReset_get] at on
    exact (Bool.false_ne_true on).elim

end FaultUnit
end Sys2Proof.Machine
end

section
/-! Every step keeps the Fault Unit consistent (R149, R155, R157): the commands that reach it by occurrences alone, and
the five that act on it themselves. -/

namespace Sys2Proof.Machine

/-- SET_SETTING of an item without a row of its own changes no reaction (R182). -/
theorem State.putSetting_reactions (s : State) (item : Byte) (value : Word) (h : isReactionItem item = false) :
    (s.putSetting item value).2.reactions = s.settings.reactions := by
  have put (st : Settings) (hput : s.settings.put s.straps.visibleLines item value.toNat = some st) :
      st.reactions = s.settings.reactions := by
    by_cases row : 1 ≤ item.toNat ∧ item.toNat ≤ 0x11
    · exact (Settings.put_row row hput).2
    · obtain ⟨src, _, hs, _⟩ := (s.settings.put_reaction_iff st _ item _ row).mp hput
      exact (Bool.false_ne_true (h.symm.trans ((isReactionItem_iff item).mpr ⟨src, hs⟩))).elim
  unfold State.putSetting
  split
  · rfl
  · rename_i st hput
    split
    · rfl
    · split
      · rfl
      · exact put st hput

/-- The Fault Unit is consistent with the configured reactions (R149, R155, R157). -/
def FaultUnitOk (s : State) : Prop := FaultsOk s.faults s.settings.reactions

namespace FaultUnitOk

/-- Nothing else is looked at. -/
theorem congr {s t : State} (h : FaultUnitOk s) (faults : t.faults = s.faults)
    (reactions : t.settings.reactions = s.settings.reactions) : FaultUnitOk t := by
  unfold FaultUnitOk
  rw [faults, reactions]
  exact h

/-- The traffic on the array reaches the unit by occurrences alone. -/
theorem keptByTraffic : KeptByTraffic FaultUnitOk where
  traffic h ht := by
    rw [ht]
    exact h
  lock h _ := h
  occur src h := State.occur_faultsOk _ src h
  skip h := h

variable {s : State} (h : FaultUnitOk s)
include h

theorem occur (src : FaultSource) : FaultUnitOk (s.occur src) := s.occur_faultsOk src h

theorem settle : FaultUnitOk s.settle := keptByTraffic.settle h

theorem settled : Leaves FaultUnitOk (.next s.settle) := .next h.settle

/-- The Command Unit's answer, after what does not reach the unit. -/
theorem finish {t : State} (st : Status) (payload : List Byte) (faults : t.faults = s.faults := by rfl)
    (reactions : t.settings.reactions = s.settings.reactions := by rfl) : FaultUnitOk (t.finish st payload) :=
  h.congr (by simp [faults]) (by simp [reactions])

theorem finished {t : State} (st : Status) (payload : List Byte) (faults : t.faults = s.faults := by rfl)
    (reactions : t.settings.reactions = s.settings.reactions := by rfl) : FaultUnitOk (t.finish st payload).settle :=
  (h.finish st payload faults reactions).settle

/-! ### The migration -/

/-- Each line that is released raises SPARE_EXHAUSTED (R118). -/
theorem releaseLines (n : Nat) : FaultUnitOk (State.releaseLines n s) := by
  induction n generalizing s with
  | zero => exact h
  | succ n ih =>
    unfold State.releaseLines
    split
    · exact h
    · rename_i line _
      have released : FaultUnitOk (s.released line) := State.occur_faultsOk _ _ h
      exact ih released

theorem execMigrationStart : Leaves FaultUnitOk (execMigrationStart s) := by
  have started (line : Nat) (origin : Origin) (n : Fin 8) : FaultUnitOk (s.startMigration line origin n) := h
  unfold Machine.execMigrationStart
  split
  · split
    · exact .next h
    · split
      · exact (started _ _ _).settled
      · exact (h.releaseLines _).settled
  · exact .next h

theorem execMigrationRead (u : Upset) : Leaves FaultUnitOk (execMigrationRead u s) := by
  unfold Machine.execMigrationRead
  split
  · rename_i a loc location orphan _
    extract_lets t w r
    have opened : FaultUnitOk t := h
    have reported : FaultUnitOk r := keptByTraffic.directReport opened _ _ _ _ _ _
    refine settled ?_
    split <;> exact reported
  · exact .next h

theorem execMigrationWrite : Leaves FaultUnitOk (execMigrationWrite s) := by
  unfold Machine.execMigrationWrite
  split
  · refine settled ?_
    split <;> exact h
  · exact .next h

/-- A copy that fails raises MIGRATION_FAILED, and SPARE_EXHAUSTED where no slot is left (R122, R123). -/
theorem verifyFailed (n : Fin 8) (line : Nat) (origin : Origin) (previous : Option (Fin 8)) :
    FaultUnitOk (s.verifyFailed n line origin previous) := by
  have failed (map : PerSlot SpareEntry) (m : Option Migration) (rs : List ErrRecord) : FaultUnitOk
      (({ s with spareMap := map, migration := m, records := rs } : State).occur .migrationFailed) :=
    State.occur_faultsOk _ _ h
  unfold State.verifyFailed
  extract_lets retired
  split
  · exact failed _ _ s.records
  · exact (failed retired none _).occur _

theorem endVerify (n : Fin 8) (equal : Bool) : FaultUnitOk (s.endVerify n equal) := by
  unfold State.endVerify
  split
  · split
    · unfold State.verified
      split <;> exact h
    · exact h.verifyFailed _ _ _ _
  · exact h

theorem endOrphanVerify (n : Fin 8) (equal : Bool) : FaultUnitOk (s.endOrphanVerify n equal) := by
  unfold State.endOrphanVerify
  split
  · exact h
  · exact State.occur_faultsOk _ _ h

theorem execMigrationVerify (u : Upset) : Leaves FaultUnitOk (execMigrationVerify u s) := by
  unfold Machine.execMigrationVerify
  split
  · rename_i n loc w orphan _
    have opened : FaultUnitOk (s.opened loc u) := h
    refine settled ?_
    split
    · exact opened.endOrphanVerify n _
    · exact opened.endVerify n _
  · exact .next h

/-! ### The scrub, the tick and the expiries -/

theorem endScrubGrant : FaultUnitOk s.endScrubGrant := by
  unfold State.endScrubGrant
  split
  · exact h.finish _ _
  · exact h

theorem execScrubWord (u : Upset) : Leaves FaultUnitOk (execScrubWord u s) := by
  unfold Machine.execScrubWord
  split
  · rename_i a loc location orphan _
    extract_lets m w t
    have stored : FaultUnitOk { s with mem := if scrubbedWord w = w then m else m.write loc (scrubbedWord w) } := h
    have reported : FaultUnitOk t := keptByTraffic.scrubReport stored _ _ _
    have ended : FaultUnitOk { (if orphan then t else t.advanceScrub) with grant := none } := by
      split <;> exact reported
    exact ended.endScrubGrant.settled
  · exact .next h

/-- The lock's expiry raises LOCK_FAULT (R83). -/
theorem expireLock : FaultUnitOk s.expireLock := State.occur_faultsOk _ _ h

theorem execTick : Leaves FaultUnitOk (execTick s) := by
  have expired : FaultUnitOk s.takeExpiries := by
    unfold State.takeExpiries
    split
    · exact h.expireLock
    · exact h
  have ticked : FaultUnitOk { s.takeExpiries with
      lock := s.takeExpiries.lock.map Lock.ticked, scrub := s.takeExpiries.scrub.ticked,
      tickLength := s.takeExpiries.settings.tickDivisor } := expired
  exact ticked.settled

theorem execScrubIntervalExpiry : Leaves FaultUnitOk (execScrubIntervalExpiry s) := by
  have expired : FaultUnitOk s.expireInterval := h
  exact .guarded h fun _ => expired.settle

/-! ### The link -/

/-- What the link does reaches the link, the Command Unit and what it has sent. -/
theorem linked (l : Link) : FaultUnitOk { s with link := l } := h

theorem endResponse (characters : List Byte) (resetPart : Bool) : FaultUnitOk (s.endResponse characters resetPart) := h

theorem execCharacterReceived (samples : BitVec 30) : Leaves FaultUnitOk (execCharacterReceived samples s) := by
  unfold Machine.execCharacterReceived
  split <;> exact .next h

theorem execBreakReceived (sent : Nat) : Leaves FaultUnitOk (execBreakReceived sent s) := by
  have broken (l : Link) : FaultUnitOk (State.breakParser { s with link := l } sent) := by
    unfold State.breakParser
    split <;> exact h
  unfold Machine.execBreakReceived
  split
  · exact .guarded h fun _ => broken _
  · exact .next h

theorem execParserTakesItem : Leaves FaultUnitOk (execParserTakesItem s) := by
  have resumed (l : Link) : FaultUnitOk (State.resumeFrame { s with link := l }) := h.congr (by simp) (by simp)
  unfold Machine.execParserTakesItem
  split
  · exact .next (h.linked _)
  · split
    · exact .next h
    · exact .next (resumed _)
  · exact .next h

theorem execResponseSent : Leaves FaultUnitOk (execResponseSent s) := by
  unfold Machine.execResponseSent
  split
  · exact .next (h.endResponse _ _)
  · exact .next h

theorem execReceiverReturnsToIdle : Leaves FaultUnitOk (execReceiverReturnsToIdle s) := by
  unfold Machine.execReceiverReturnsToIdle
  split <;> exact .next h

/-! ### Service commands that do not reach the unit -/

/-- A service command that is answered with a payload and does nothing else. -/
theorem answered (c : SvcCommand) (payload : State → List Byte) :
    Leaves FaultUnitOk (s.serve c fun t => t.finish .ok (payload t)) :=
  .served c h (h.finish .ok (payload s))

theorem execReadRecords (index count : Byte) : Leaves FaultUnitOk (execReadRecords index count s) := by
  refine .served _ h ?_
  split <;> exact h.finish _ _

theorem execCloseRecord (address : BitVec 24) : Leaves FaultUnitOk (execCloseRecord address s) := by
  refine .served _ h ?_
  split
  · exact h.finish _ _
  · split <;> exact h.finish _ _

theorem execClearRecords : Leaves FaultUnitOk (execClearRecords s) := by
  refine .served _ h ?_
  exact h.finish _ _

theorem execSpareLine (line : BitVec 24) : Leaves FaultUnitOk (execSpareLine line s) := by
  refine .served _ h ?_
  split
  · exact h.finish _ _
  · split
    · exact h.finish _ _
    · split
      · exact h.finish _ _
      · exact h.finished _ _

theorem execScrubStart (mode : Byte) : Leaves FaultUnitOk (execScrubStart mode s) := by
  refine .served _ h ?_
  split
  · exact h.finish _ _
  · split
    · exact h.finish _ _
    · exact h.finished _ _

theorem execScrubStop : Leaves FaultUnitOk (execScrubStop s) := by
  refine .served _ h ?_
  dsimp only
  split
  · exact h
  · split
    · exact h
    · exact h.finished _ _

theorem execGetSetting (item : Byte) : Leaves FaultUnitOk (execGetSetting item s) := by
  refine .served _ h ?_
  split <;> exact h.finish _ _

theorem execSetSetting (item : Byte) (value : Word) : Leaves FaultUnitOk (execSetSetting item value s) := by
  unfold Machine.execSetSetting
  split
  · exact .next h
  · rename_i other
    exact .served _ h (h.finish _ _ rfl (s.putSetting_reactions item value (Bool.eq_false_iff.mpr other)))

theorem execInspect (location : BitVec 24) : Leaves FaultUnitOk (execInspect location s) := by
  have waiting : FaultUnitOk s.waitForGrant := h
  refine .served _ h ?_
  split
  · exact h.finish _ _
  · split
    · exact h.finish _ _
    · exact waiting.settle

theorem execInspectRead (u : Upset) : Leaves FaultUnitOk (execInspectRead u s) := by
  unfold Machine.execInspectRead
  split
  · exact .next (h.finished _ _)
  · exact .next h

/-! ### Commands that act on the unit -/

/-- RELEASE_MODE lowers the device mode to what is demanded (R156). -/
theorem execReleaseMode : Leaves FaultUnitOk (execReleaseMode s) := by
  have released : FaultUnitOk s.releaseMode := FaultUnit.release_ok h
  exact .served _ h (released.finished _ _)

/-- CLEAR_FAULTS (R158). -/
theorem execClearFaults (mask : BitVec 16) : Leaves FaultUnitOk (execClearFaults mask s) := by
  have cleared : FaultUnitOk (s.clearFaults mask) := FaultUnit.clear_ok h mask
  refine .served _ h ?_
  split
  · exact h.finish _ _
  · exact cleared.finish _ _

/-- SET_SETTING of a reaction (R154). -/
theorem execSetReaction (source : FaultSource) (value : Word) :
    Leaves FaultUnitOk (execSetReaction source value s) := by
  have reacted (r : Reaction) : FaultUnitOk (s.react source r) := FaultUnit.react_ok h source r
  refine .served _ h ?_
  split
  · exact h.finish _ _
  · exact (reacted _).finished _ _

/-- A system reset (R160). -/
theorem execSystemReset (cause : ResetCause) : Leaves FaultUnitOk (execSystemReset cause s) := by
  have fallen : FaultUnitOk { s.systemReset with rstN := false } := s.faults.systemReset_ok s.settings.reactions
  have taken : FaultUnitOk { s.systemReset with resetDue := false } := s.faults.systemReset_ok s.settings.reactions
  cases cause with
  | rstnFalls => exact .guarded h fun _ => fallen.settle
  | resetPart => exact .guarded h fun _ => taken.settle

omit h in
/-- Power-on (R161). -/
theorem execPowerOn (straps : Straps) (level : Bool) : Leaves FaultUnitOk (execPowerOn straps level s) := by
  have on : FaultUnitOk (s.poweredOn straps level) := faultsOk_initial
  exact on.settled

end FaultUnitOk

/-! ### Every command -/

/-- Every command keeps the Fault Unit consistent. -/
theorem exec_faultUnitOk (c : Instr) {s : State} (h : FaultUnitOk s) : Leaves FaultUnitOk (exec c s) := by
  have kept := FaultUnitOk.keptByTraffic
  cases c with
  | powerOn straps rstN => exact .execPowerOn straps rstN
  | systemReset cause => exact h.execSystemReset cause
  | rstNRises => exact kept.execRstNRises h
  | resetCompletes => exact kept.execResetCompletes h
  | fillBegins => exact kept.execFillBegins h
  | readRequest | writeRequest | lockedReadRequest | lockedWriteRequest =>
    exact .guarded h fun _ => kept.present h _
  | writeInsertion => exact kept.execWriteInsertion h
  | writeCompletion => exact kept.execWriteCompletion h
  | readBeatRetaken => exact kept.execReadBeatRetaken h
  | foregroundRead u => exact kept.execForegroundRead h u
  | lockedReadDecode u => exact kept.execLockedReadDecode h u
  | drainEnd u => exact kept.execDrainEnd h u
  | prefetchRead u => exact kept.execPrefetchRead h u
  | fillWrite => exact kept.execFillWrite h
  | migrationStart => exact h.execMigrationStart
  | migrationRead u => exact h.execMigrationRead u
  | migrationWrite => exact h.execMigrationWrite
  | migrationVerify u => exact h.execMigrationVerify u
  | scrubWord u => exact h.execScrubWord u
  | tick => exact h.execTick
  | lockHoldExpiry => exact .guarded h fun _ => h.expireLock.settle
  | scrubIntervalExpiry => exact h.execScrubIntervalExpiry
  | characterReceived samples => exact h.execCharacterReceived samples
  | breakReceived sent => exact h.execBreakReceived sent
  | parserTakesItem => exact h.execParserTakesItem
  | frameTimerExpiry | startBitDetected => exact .guarded h fun _ => h.linked _
  | responseSent => exact h.execResponseSent
  | receiverReturnsToIdle => exact h.execReceiverReturnsToIdle
  | identify => exact h.answered .identify fun t => identifyBytes t.straps
  | readStatus => exact h.answered .readStatus State.statusBytes
  | readFaults => exact h.answered .readFaults State.faultBytes
  | readSpareMap => exact h.answered .readSpareMap fun t => spareMapBytes t.spareMap
  | resetPart => exact h.answered .resetPart fun _ => []
  | clearFaults mask => exact h.execClearFaults mask
  | releaseMode => exact h.execReleaseMode
  | readRecords index count => exact h.execReadRecords index count
  | closeRecord address => exact h.execCloseRecord address
  | clearRecords => exact h.execClearRecords
  | spareLine line => exact h.execSpareLine line
  | scrubStart mode => exact h.execScrubStart mode
  | scrubStop => exact h.execScrubStop
  | getSetting item => exact h.execGetSetting item
  | setSetting item value => exact h.execSetSetting item value
  | setReaction source value => exact h.execSetReaction source value
  | inspect location => exact h.execInspect location
  | inspectRead u => exact h.execInspectRead u

/-- Settles O55: on an empty queue of commands a step idles, and otherwise it runs the command at the front. -/
theorem faultUnitStaysConsistent : Obligations.FaultUnitStaysConsistent := by
  intro s t h ht
  unfold step at ht
  split at ht
  · obtain rfl := Host.Outcome.next.inj ht
    exact h
  · rename_i c cs _
    have front : FaultUnitOk (s.withPending cs) := h
    exact exec_faultUnitOk c front t ht

end Sys2Proof.Machine
end

section
/-! An occurrence at the Fault Unit (R152, R153), a change of a configured reaction (R154), CLEAR_FAULTS (R158) and
RELEASE_MODE (R156), each with what it does to the scrub (R146). -/

namespace Sys2Proof.Machine

/-! ### The scrub in HALTED -/

/-- A SCRUB grant of the present run is one that no system reset has left to finish (R8, R146). -/
theorem State.scrubGranted_iff (s : State) :
    s.scrubGranted = true ↔ ∃ a loc k, s.grant = some ⟨.scrub a loc k, false⟩ := by
  constructor
  · intro granted
    unfold State.scrubGranted at granted
    split at granted
    · rename_i a loc k orphan hg
      obtain rfl : orphan = false := by simpa using granted
      exact ⟨a, loc, k, hg⟩
    · exact (Bool.false_ne_true granted).elim
  · rintro ⟨a, loc, k, hg⟩
    exact s.scrubGranted_scrub a loc k false hg

/-- A run is PAUSED from its phase, an interval without an expiry that was due; any other scrub is as it was (R146). -/
theorem Scrub.pause_eq (sc : Scrub) : sc.pause = { sc with
    run := match sc.run with
      | .running mode (.sweeping left) => .paused mode (.sweeping left)
      | .running mode (.waiting n _) => .paused mode (.waiting n false)
      | other => other } := by
  obtain ⟨run, _, _, _, _, _⟩ := sc
  cases run with
  | stopped => rfl
  | paused mode phase => rfl
  | running mode phase => cases phase <;> rfl

/-- In HALTED the scrub pauses where no SCRUB grant of its run is in progress (R146). -/
theorem State.pauseIfHalted_halted (s : State) (halted : s.faults.mode = .halted) (free : s.scrubGranted = false) :
    s.pauseIfHalted = { s with scrub := s.scrub.pause } := by
  rw [State.pauseIfHalted, if_pos ⟨halted, free⟩]

/-- In another mode, or before the end of such a grant, it goes on (R146). -/
theorem State.pauseIfHalted_goesOn (s : State) (h : s.faults.mode ≠ .halted ∨ s.scrubGranted = true) :
    s.pauseIfHalted = s := by
  rw [State.pauseIfHalted, if_neg]
  rintro ⟨halted, free⟩
  rcases h with other | granted
  · exact other halted
  · exact Bool.false_ne_true (free.symm.trans granted)

/-- The scrub record alone in each of the two cases. -/
theorem State.scrub_paused (s : State) (halted : s.faults.mode = .halted) (free : s.scrubGranted = false) :
    s.pauseIfHalted.scrub = s.scrub.pause := congrArg State.scrub (s.pauseIfHalted_halted halted free)

theorem State.scrub_goesOn (s : State) (h : s.faults.mode ≠ .halted ∨ s.scrubGranted = true) :
    s.pauseIfHalted.scrub = s.scrub := congrArg State.scrub (s.pauseIfHalted_goesOn h)

/-! ### An occurrence -/

/-- An occurrence of a CLEAR source that is configured IGNORE is not recorded (R152). -/
theorem FaultUnit.occur_unrecorded (fu : FaultUnit) (src : FaultSource) (configured : Reaction) (escalate : Bool)
    (clear : (fu.sources.get src).set = false) (ignored : configured = .ignore) :
    fu.occur src configured escalate = fu := if_pos ⟨ignored, clear⟩

/-- Any other occurrence is (R152). -/
theorem FaultUnit.occur_recorded (fu : FaultUnit) (src : FaultSource) (configured : Reaction) (escalate : Bool)
    (h : (fu.sources.get src).set = true ∨ configured ≠ .ignore) :
    fu.occur src configured escalate =
      refreshed { fu with sources := fu.sources.set src (recorded (fu.sources.get src) configured escalate) } := by
  refine if_neg ?_
  rintro ⟨ignored, clear⟩
  rcases h with set | other
  · exact Bool.false_ne_true (clear.symm.trans set)
  · exact other ignored

/-- The effective reaction that a recorded occurrence leaves (R152, R153). -/
theorem FaultUnit.recorded_effective (r : FaultRecord) (configured : Reaction) (escalate : Bool) :
    (r.set = false → (recorded r configured escalate).effective = configured) ∧
    (r.set = true → escalate = false → (recorded r configured escalate).effective = r.effective) ∧
    (r.set = true → escalate = true →
      (recorded r configured escalate).effective.rank = min (r.effective.rank + 1) 4) := by
  refine ⟨fun clear => ?_, fun set off => ?_, fun set on => ?_⟩
  · simp [recorded, clear]
  · simp [recorded, set, off]
  · simp [recorded, set, on, Reaction.raised_rank]

/-- What a SET source demands by its effective reaction (R151, R155). -/
theorem demand_of_low (n : Nat) (e : Reaction) (h : e = .ignore ∨ e = .note ∨ e = .alert) :
    (⟨true, n, e⟩ : FaultRecord).demand = .normal := by
  rcases h with rfl | rfl | rfl <;> rfl

/-- Settles O28: what a source demands, the pause in HALTED, and an occurrence that is recorded or not. -/
theorem occurrenceRecorded : Obligations.OccurrenceRecorded := by
  refine ⟨⟨fun _ _ => rfl, demand_of_low, fun _ => ⟨rfl, rfl⟩, rfl, rfl⟩,
    fun s => ⟨s.scrubGranted_iff, fun halted free => ?_, s.pauseIfHalted_goesOn⟩, fun s src => ?_⟩
  · exact (s.pauseIfHalted_halted halted free).trans (congrArg (fun sc => { s with scrub := sc }) s.scrub.pause_eq)
  · intro r configured t q
    let u : State := { s with faults := t.faults }
    refine ⟨FaultUnit.occur_unrecorded _ _ _ _, fun records => ?_, fun halted free => ?_, fun goesOn => ?_, rfl⟩
    · let escalate := s.settings.escalate.getLsbD src.place
      let fu : FaultUnit :=
        { s.faults with sources := s.faults.sources.set src (FaultUnit.recorded r configured escalate) }
      have faults : t.faults = fu.refreshed := FaultUnit.occur_recorded _ _ _ _ records
      have same : q = FaultUnit.recorded r configured escalate := by
        show t.faults.sources.get src = _
        rw [faults, FaultUnit.refreshed_get, if_pos rfl]
      obtain ⟨fresh, kept, raised⟩ := FaultUnit.recorded_effective r configured escalate
      rw [same, faults]
      exact ⟨rfl, rfl, fresh, kept, raised, fun k other => PerSource.get_set_other _ _ _ _ other, rfl,
        fu.refreshed_mode_cases, fu.mode_le_refreshed, fu.demand_le_refreshed, fu.alerting_iff⟩
    · exact (u.scrub_paused halted free).trans s.scrub.pause_eq
    · exact u.scrub_goesOn goesOn

/-! ### A change of a configured reaction -/

/-- The record of a source whose configured reaction has changed (R154). -/
theorem FaultUnit.reacted_eq (f : FaultRecord) (r : Reaction) : reacted f r =
    { f with effective := if f.set = true ∧ r.rank ≤ f.effective.rank then f.effective else r } := by
  obtain ⟨on, count, effective⟩ := f
  cases on with
  | false => simp [reacted]
  | true => by_cases rises : effective.rank < r.rank <;> simp [reacted, ← Nat.not_lt, rises]

/-- No reaction has an encoding above 4 (R182). -/
theorem Reaction.ofRank_none (v : Nat) (h : 4 < v) : Reaction.ofRank v = none := by
  rw [Option.eq_none_iff_forall_ne_some]
  intro r hr
  have := r.rank_le
  rw [(Reaction.ofRank_eq_some_iff v r).mp hr] at this
  omega

section
variable (s : State) (src : FaultSource) (v : Word) (handed : s.handed (.setSetting src.item v) = true)
include handed

theorem exec_setReaction_none (h : Reaction.ofRank v.toNat = none) :
    exec (.setReaction src v) s = .next (s.finish .badArgument []) := by
  simp only [exec, execSetReaction, s.serve_handed _ _ handed, h]

theorem exec_setReaction_some (r : Reaction) (h : Reaction.ofRank v.toNat = some r) :
    exec (.setReaction src v) s = .next ((s.react src r).finish .ok []).settle := by
  simp only [exec, execSetReaction, s.serve_handed _ _ handed, h]

end

/-- Settles O49: a value above 4, and a reaction's rank. -/
theorem reactionSet : Obligations.ReactionSet := by
  intro s src v handed
  refine ⟨fun above => exec_setReaction_none s src v handed (Reaction.ofRank_none _ above), fun r hr =>
    ⟨s.react src r, exec_setReaction_some s src v handed r ((Reaction.ofRank_eq_some_iff _ _).mpr hr), rfl, rfl, ?_⟩⟩
  let fu : FaultUnit :=
    { s.faults with sources := s.faults.sources.set src (FaultUnit.reacted (s.faults.sources.get src) r) }
  let u : State := { s with
    settings := { s.settings with reactions := s.settings.reactions.set src r }, faults := fu.refreshed }
  have same : fu.refreshed.sources.get src = FaultUnit.reacted (s.faults.sources.get src) r :=
    PerSource.get_set_same _ _ _
  refine ⟨fun k other => PerSource.get_set_other _ _ _ _ other, same.trans (FaultUnit.reacted_eq _ _), rfl,
    fu.mode_le_refreshed, fu.refreshed_mode_cases, fu.demand_le_refreshed, fu.alerting_iff, fun goesOn => ?_,
    fun halted free => ?_⟩
  · exact u.scrub_goesOn goesOn
  · exact (u.scrub_paused halted free).trans s.scrub.pause_eq

/-! ### CLEAR_FAULTS -/

/-- A mask without a bit above 8 that names every source has all nine bits (R158, R177). -/
theorem mask_names_all (mask : BitVec 16) (h : mask.toNat < 512) :
    FaultSource.all.all (fun src => mask.getLsbD src.place) = true ↔ mask = 0x1FF := by
  constructor
  · intro all
    refine BitVec.eq_of_getLsbD_eq fun i hi => ?_
    by_cases named : i ≤ 8
    · obtain ⟨src, rfl⟩ := FaultSource.exists_place i named
      rw [List.all_eq_true.mp all src (FaultSource.mem_all src)]
      cases src <;> rfl
    · have beyond (x : BitVec 16) (hx : x.toNat < 2 ^ 9) : x.getLsbD i = false :=
        Nat.testBit_lt_two_pow (hx.trans_le (Nat.pow_le_pow_right (by decide) (by omega)))
      rw [beyond mask h, beyond 0x1FF (by decide)]
  · rintro rfl
    decide

section
variable (s : State) (mask : BitVec 16) (handed : s.handed (.clearFaults mask) = true)
include handed

theorem exec_clearFaults_bad (h : 512 ≤ mask.toNat) :
    exec (.clearFaults mask) s = .next (s.finish .badArgument []) := by
  simp only [exec, execClearFaults, s.serve_handed _ _ handed, badMask, decide_eq_true h, if_true]

theorem exec_clearFaults_good (h : mask.toNat < 512) :
    exec (.clearFaults mask) s = .next ((s.clearFaults mask).finish .ok []) := by
  simp only [exec, execClearFaults, s.serve_handed _ _ handed, badMask, decide_eq_false (Nat.not_le_of_lt h),
    Bool.false_eq_true, if_false]

end

/-- The snapshot is emptied where all nine sources are selected, and is otherwise kept (R158). -/
theorem FaultUnit.clear_snapshot (fu : FaultUnit) (configured : PerSource Reaction) (mask : BitVec 16)
    (h : mask.toNat < 512) :
    (mask = 0x1FF → ∀ src, (fu.clear configured mask).snapshot.get src = false) ∧
      (mask ≠ 0x1FF → (fu.clear configured mask).snapshot = fu.snapshot) := by
  have all := mask_names_all mask h
  refine ⟨fun full src => ?_, fun part => if_neg (mt all.mp part)⟩
  have emptied : (fu.clear configured mask).snapshot = .make fun _ => false := if_pos (all.mpr full)
  rw [emptied, PerSource.get_make]

/-! ### RELEASE_MODE -/

theorem exec_releaseMode (s : State) (handed : s.handed .releaseMode = true) :
    exec .releaseMode s = .next (s.releaseMode.finish .ok []).settle := by
  simp only [exec, execReleaseMode, s.serve_handed _ _ handed]

/-- Settles O44: CLEAR_FAULTS by its mask, and RELEASE_MODE to the demanded mode. -/
theorem faultsClearedAndModeReleased : Obligations.FaultsClearedAndModeReleased := by
  refine ⟨fun s mask handed => ⟨exec_clearFaults_bad s mask handed, fun good => ?_⟩, fun s handed => ?_⟩
  · exact ⟨s.faults.clear s.settings.reactions mask, exec_clearFaults_good s mask handed good,
      s.faults.clear_get _ mask, rfl, FaultUnit.alerting_iff _, s.faults.clear_snapshot _ mask good⟩
  · exact ⟨s.faults.demanded, exec_releaseMode s handed, s.faults.demand_le, s.faults.demanded_cases⟩

end Sys2Proof.Machine
end

section
/-! Payloads as runs of fields, each a number in so many bytes, least significant first (R175, R183 to R185): what
stands at the bytes of a field. -/

namespace Sys2Proof.Machine

/-- The bytes of fields in their order; a field is its width in bytes and its value. -/
def layoutBytes (fs : List (Nat × Nat)) : List Byte := fs.flatMap fun f => leBytes f.1 f.2

/-- The field that begins at a byte. -/
def fieldAt : List (Nat × Nat) → Nat → Option (Nat × Nat)
  | [], _ => none
  | f :: fs, k => if k = 0 then some f else if f.1 ≤ k then fieldAt fs (k - f.1) else none

theorem length_leBytes (n v : Nat) : (leBytes n v).length = n := by
  induction n generalizing v with
  | zero => rfl
  | succ n ih => exact congrArg (· + 1) (ih _)

theorem bytesAt_cons (b : Byte) (bs : List Byte) (k n : Nat) : bytesAt (b :: bs) (k + 1) n = bytesAt bs k n := by
  induction n generalizing k with
  | zero => rfl
  | succ n ih => rw [bytesAt, bytesAt, ih, List.getD_cons_succ]

theorem bytesAt_append (xs ys : List Byte) (k n : Nat) : bytesAt (xs ++ ys) (xs.length + k) n = bytesAt ys k n := by
  induction xs with
  | nil => rw [List.nil_append, List.length_nil, Nat.zero_add]
  | cons x xs ih => rw [List.cons_append, List.length_cons, Nat.add_right_comm, bytesAt_cons, ih]

/-- What the first bytes spell is the number they were made from, as far as they hold it. -/
theorem bytesAt_leBytes (n v : Nat) (ys : List Byte) : bytesAt (leBytes n v ++ ys) 0 n = v % 256 ^ n := by
  induction n generalizing v with
  | zero => rw [Nat.pow_zero, Nat.mod_one]; rfl
  | succ n ih =>
    have step : 256 ^ (n + 1) = 256 * 256 ^ n := Nat.pow_succ'
    rw [leBytes, List.cons_append, bytesAt, bytesAt_cons, ih, List.getD_cons_zero, BitVec.toNat_ofNat, step,
      Nat.mod_mul]

/-- A field's bytes spell its value, as far as they hold it. -/
theorem bytesAt_field {fs : List (Nat × Nat)} {k n v : Nat} (h : fieldAt fs k = some (n, v)) :
    bytesAt (layoutBytes fs) k n = v % 2 ^ (8 * n) := by
  rw [Nat.pow_mul]
  induction fs generalizing k with
  | nil => cases h
  | cons f fs ih =>
    rw [fieldAt] at h
    rw [layoutBytes, List.flatMap_cons]
    split at h
    · rename_i first
      obtain rfl := Option.some.inj h
      rw [first]
      exact bytesAt_leBytes n v _
    · split at h
      · rename_i beyond
        have there := bytesAt_append (leBytes f.1 f.2) (layoutBytes fs) (k - f.1) n
        rw [length_leBytes, Nat.add_sub_cancel' beyond] at there
        exact there.trans (ih h)
      · cases h

/-- A value that a field holds in full. -/
theorem bytesAt_field_lt {fs : List (Nat × Nat)} {k n v : Nat} (h : fieldAt fs k = some (n, v))
    (fits : v < 2 ^ (8 * n)) : bytesAt (layoutBytes fs) k n = v :=
  (bytesAt_field h).trans (Nat.mod_eq_of_lt fits)

/-- A bit of a byte is that bit of the number the byte spells. -/
theorem getLsbD_byte (bs : List Byte) (k i : Nat) : (bs.getD k 0).getLsbD i = (bytesAt bs k 1).testBit i := rfl

theorem mul_bitNat (n : Nat) (b : Bool) : n * bitNat b = if b then n else 0 := by
  cases b <;> simp [bitNat]

/-! ### Encodings -/

theorem encodeBit_lt (b : Option ErrorBit) : encodeBit b < 256 := by
  rcases b with _ | n | k
  · decide
  · exact n.isLt.trans (by decide)
  · have := k.isLt
    show 0x20 + k.val < 256
    omega

theorem encodeSyndrome_some (y : Syndrome) : encodeSyndrome (some y) = y.s.toNat + if y.odd then 64 else 0 :=
  congrArg (y.s.toNat + ·) (mul_bitNat 64 y.odd)

theorem encodeSyndrome_lt (y : Option Syndrome) : encodeSyndrome y < 256 := by
  cases y with
  | none => decide
  | some y =>
    have := y.s.isLt
    rw [encodeSyndrome_some]
    split <;> omega

theorem bitNat_lt (b : Bool) : bitNat b < 256 := by
  cases b <;> decide

end Sys2Proof.Machine
end

section
/-! The reports and the layouts of the payloads, each as its fields: IDENTIFY, READ_STATUS and READ_FAULTS
(R185), the Spare Map and INSPECT (R184), and a record (R183). -/

namespace Sys2Proof.Machine

/-! ### IDENTIFY -/

/-- The fields of IDENTIFY (R185). -/
def identifyFields (c : Straps) : List (Nat × Nat) :=
  [(2, 0x0B57), (2, 417), (1, 1), (3, c.populated), (3, c.visible), (1, c.station.toNat),
    (1, c.size.toNat + 8 * bitNat c.preserve)]

theorem identifyBytes_eq (c : Straps) : identifyBytes c = layoutBytes (identifyFields c) := rfl

/-- P is at most 2 to the power 22 (R2). -/
theorem populated_lt (c : Straps) : c.populated < 2 ^ 24 :=
  Nat.pow_lt_pow_right (by decide) (by omega)

/-- IDENTIFY field by field (R185). -/
theorem identify_layout (c : Straps) :
    let b := identifyBytes c
    b.length = 13 ∧ bytesAt b 0 2 = 0x0B57 ∧ bytesAt b 2 2 = 417 ∧ bytesAt b 4 1 = 1 ∧
    bytesAt b 5 3 = c.populated ∧ bytesAt b 8 3 = c.populated - 64 ∧ bytesAt b 11 1 = c.station.toNat ∧
    bytesAt b 12 1 = c.size.toNat + if c.preserve then 8 else 0 := by
  intro b
  rw [show b = layoutBytes (identifyFields c) from identifyBytes_eq c]
  have populated := populated_lt c
  have visible : c.visible < 2 ^ 24 := (Nat.sub_le _ _).trans_lt populated
  have station : c.station.toNat < 256 := c.station.isLt.trans (by decide)
  have size : c.size.toNat + 8 * bitNat c.preserve < 256 := by
    have := c.size.isLt
    rw [mul_bitNat]
    split <;> omega
  refine ⟨rfl, bytesAt_field_lt rfl (by decide), bytesAt_field_lt rfl (by decide), bytesAt_field_lt rfl (by decide),
    bytesAt_field_lt rfl populated, bytesAt_field_lt rfl visible, bytesAt_field_lt rfl station, ?_⟩
  rw [← mul_bitNat]
  exact bytesAt_field_lt rfl size

/-! ### READ_STATUS -/

/-- Byte 1 of READ_STATUS (R185). -/
def statusFlags (reset filling snapshot : Bool) (lock : Nat) (migrates : Bool) : Nat :=
  bitNat reset + 2 * bitNat filling + 4 * bitNat snapshot + 8 * lock + 32 * bitNat migrates

/-- The fields of READ_STATUS (R185). -/
def State.statusFields (s : State) : List (Nat × Nat) :=
  [(1, s.faults.mode.rank),
    (1, statusFlags s.resetInProgress s.fill.filling s.faults.snapshotHolds (lockCode s.lock) s.migration.isSome),
    (3, s.fill.watermark), (1, s.scrub.run.encode + 16 * s.scrub.word), (3, s.scrub.line), (2, s.scrub.passes.toNat),
    (2, s.scrub.skipped), (1, s.queue.length), (1, s.records.length), (3, s.lock.elim 0 fun l => l.address),
    (1, s.migrationStatus.1 + 16 * s.migrationStatus.2.1), (3, s.migrationStatus.2.2)]

theorem State.statusBytes_eq (s : State) : s.statusBytes = layoutBytes s.statusFields := rfl

/-- The parts of byte 1 (R185). -/
theorem statusFlags_parts : ∀ (reset filling snapshot : Bool) (lock : Fin 4) (migrates : Bool),
    let n := statusFlags reset filling snapshot lock migrates
    n.testBit 0 = reset ∧ n.testBit 1 = filling ∧ n.testBit 2 = snapshot ∧ n / 8 % 4 = lock.val ∧
      n.testBit 5 = migrates ∧ n < 64 := by
  decide

theorem lockCode_lt (l : Option Lock) : lockCode l < 4 := by
  unfold lockCode
  split
  · decide
  · split <;> decide

theorem lock_address (l : Option Lock) :
    (l.elim 0 fun l => l.address) % 2 ^ 24 = match l with | none => 0 | some l => l.address % 2 ^ 24 := by
  cases l <;> rfl

theorem ScrubRun.encode_lt (run : ScrubRun) : run.encode < 4 := by
  unfold ScrubRun.encode
  split <;> decide

theorem FaultUnit.snapshotHolds_iff (fu : FaultUnit) :
    fu.snapshotHolds = true ↔ ∃ src, fu.snapshot.get src = true := by
  simp [FaultUnit.snapshotHolds, FaultSource.mem_all]

/-- The migration's part of READ_STATUS while the engine is IDLE, and while it is COPYING (R185). -/
theorem State.migrationStatus_idle (s : State) (h : s.migration = none) : s.migrationStatus = (0, 0, 0) := by
  rw [State.migrationStatus, h]

theorem State.migrationStatus_copying (s : State) {m : Migration} {line cursor : Nat} {o : Origin}
    {q : Option (Fin 8)} (h : s.migration = some m) (hm : s.spareMap.get m.slot = .copying line cursor o q) :
    s.migrationStatus = (m.slot.val, cursor, line) := by
  simp only [State.migrationStatus, h, hm]

/-- READ_STATUS field by field (R185). -/
theorem status_layout (s : State) :
    let b := s.statusBytes
    b.length = 22 ∧
    bytesAt b 0 1 = s.faults.mode.rank ∧
    (b.getD 1 0).getLsbD 0 = s.resetInProgress ∧ (b.getD 1 0).getLsbD 1 = s.fill.filling ∧
    ((b.getD 1 0).getLsbD 2 = true ↔ ∃ src, s.faults.snapshot.get src = true) ∧
    bytesAt b 1 1 / 8 % 4 = lockCode s.lock ∧
    (b.getD 1 0).getLsbD 5 = s.migration.isSome ∧ bytesAt b 1 1 < 64 ∧
    bytesAt b 2 3 = s.fill.watermark % 2 ^ 24 ∧
    (s.scrub.word ≤ 7 → bytesAt b 5 1 = 16 * s.scrub.word + s.scrub.run.encode) ∧
    bytesAt b 6 3 = s.scrub.line % 2 ^ 24 ∧ bytesAt b 9 2 = s.scrub.passes.toNat ∧
    bytesAt b 11 2 = s.scrub.skipped % 2 ^ 16 ∧ bytesAt b 13 1 = s.queue.length % 2 ^ 8 ∧
    bytesAt b 14 1 = s.records.length % 2 ^ 8 ∧
    bytesAt b 15 3 = (match s.lock with | none => 0 | some l => l.address % 2 ^ 24) ∧
    (s.migration = none → bytesAt b 18 1 = 0 ∧ bytesAt b 19 3 = 0) ∧
    ∀ m line cursor o q, s.migration = some m → s.spareMap.get m.slot = .copying line cursor o q → cursor ≤ 8 →
      bytesAt b 18 1 = m.slot.val + 16 * cursor ∧ bytesAt b 19 3 = line % 2 ^ 24 := by
  intro b
  rw [show b = layoutBytes s.statusFields from s.statusBytes_eq]
  obtain ⟨reset, filling, snapshot, lock, migrates, small⟩ :=
    statusFlags_parts s.resetInProgress s.fill.filling s.faults.snapshotHolds ⟨_, lockCode_lt s.lock⟩ s.migration.isSome
  have flags : bytesAt (layoutBytes s.statusFields) 1 1 =
      statusFlags s.resetInProgress s.fill.filling s.faults.snapshotHolds (lockCode s.lock) s.migration.isSome :=
    bytesAt_field_lt rfl (small.trans (by decide))
  have mode : s.faults.mode.rank < 2 ^ 8 := by cases s.faults.mode <;> decide
  have encode := s.scrub.run.encode_lt
  have slotAndCursor : bytesAt (layoutBytes s.statusFields) 18 1 =
    (s.migrationStatus.1 + 16 * s.migrationStatus.2.1) % 2 ^ 8 := bytesAt_field rfl
  have line : bytesAt (layoutBytes s.statusFields) 19 3 = s.migrationStatus.2.2 % 2 ^ 24 := bytesAt_field rfl
  simp only [getLsbD_byte, flags, slotAndCursor, line]
  refine ⟨rfl, bytesAt_field_lt rfl mode, reset, filling,
    (Bool.eq_iff_iff.mp snapshot).trans s.faults.snapshotHolds_iff, lock, migrates, small, bytesAt_field rfl,
    fun word => (bytesAt_field_lt rfl ?_).trans (Nat.add_comm _ _), bytesAt_field rfl,
    bytesAt_field_lt rfl s.scrub.passes.isLt, bytesAt_field rfl, bytesAt_field rfl, bytesAt_field rfl,
    (bytesAt_field rfl).trans (lock_address s.lock), fun idle => ?_, fun m line cursor o q copies there small => ?_⟩
  · omega
  · rw [s.migrationStatus_idle idle]
    exact ⟨rfl, rfl⟩
  · rw [s.migrationStatus_copying copies there]
    have slot := m.slot.isLt
    have fits : m.slot.val + 16 * cursor < 2 ^ 8 := by omega
    exact ⟨Nat.mod_eq_of_lt fits, rfl⟩

/-! ### READ_FAULTS -/

/-- The fields of READ_FAULTS: two for each source, and the snapshot (R185). -/
def State.faultFields (s : State) : List (Nat × Nat) :=
  (FaultSource.all.flatMap fun src =>
    [(1, (s.faults.sources.get src).count + 128 * bitNat (s.faults.sources.get src).set),
      (1, (s.settings.reactions.get src).rank + 16 * (s.faults.sources.get src).effective.rank)]) ++
    [(2, snapshotNat s.faults.snapshot)]

theorem State.faultBytes_eq (s : State) : s.faultBytes = layoutBytes s.faultFields := rfl

theorem bitNat_eq_toNat (b : Bool) : bitNat b = b.toNat := by
  cases b <;> rfl

/-- The snapshot as a number is the one with its bits (R185). -/
theorem snapshotNat_eq (p : PerSource Bool) :
    snapshotNat p = Nat.ofBits fun i : Fin 9 => p.get (FaultSource.all.get i) := by
  simp [snapshotNat, FaultSource.all, FaultSource.place, Nat.ofBits, Fin.foldr_succ, bitNat_eq_toNat]
  omega

theorem snapshotNat_testBit (p : PerSource Bool) (src : FaultSource) :
    (snapshotNat p).testBit src.place = p.get src := by
  rw [snapshotNat_eq, Nat.testBit_ofBits_lt _ _ (Nat.lt_succ_of_le src.place_le)]
  cases src <;> rfl

theorem snapshotNat_lt (p : PerSource Bool) : snapshotNat p < 512 := by
  rw [snapshotNat_eq]
  exact Nat.ofBits_lt_two_pow _

/-- The two fields of a source, and the snapshot (R185). -/
theorem State.faultFields_at (s : State) (src : FaultSource) :
    fieldAt s.faultFields (2 * src.place) =
      some (1, (s.faults.sources.get src).count + 128 * bitNat (s.faults.sources.get src).set) ∧
    fieldAt s.faultFields (2 * src.place + 1) =
      some (1, (s.settings.reactions.get src).rank + 16 * (s.faults.sources.get src).effective.rank) ∧
    fieldAt s.faultFields 18 = some (2, snapshotNat s.faults.snapshot) := by
  cases src <;> exact ⟨rfl, rfl, rfl⟩

/-- READ_FAULTS: a source's two bytes and the snapshot (R185). -/
theorem faults_layout (s : State) (src : FaultSource) :
    let b := s.faultBytes
    let r := s.faults.sources.get src
    b.length = 20 ∧
    (r.count ≤ 15 → bytesAt b (2 * src.place) 1 = r.count + if r.set then 128 else 0) ∧
    bytesAt b (2 * src.place + 1) 1 = (s.settings.reactions.get src).rank + 16 * r.effective.rank ∧
    (bytesAt b 18 2).testBit src.place = s.faults.snapshot.get src ∧ bytesAt b 18 2 < 512 := by
  intro b r
  rw [show b = layoutBytes s.faultFields from s.faultBytes_eq]
  obtain ⟨status, reactions, last⟩ := s.faultFields_at src
  have configured := (s.settings.reactions.get src).rank_le
  have effective := r.effective.rank_le
  have small := snapshotNat_lt s.faults.snapshot
  have snapshot : bytesAt (layoutBytes s.faultFields) 18 2 = snapshotNat s.faults.snapshot :=
    bytesAt_field_lt last (small.trans (by decide))
  rw [snapshot]
  refine ⟨rfl, fun count => ?_, bytesAt_field_lt reactions (by omega), snapshotNat_testBit _ src, small⟩
  rw [← mul_bitNat]
  refine bytesAt_field_lt status ?_
  rw [mul_bitNat]
  split <;> omega

/-! ### READ_SPARE_MAP -/

/-- The first byte of an entry (R184). -/
def SpareEntry.status : SpareEntry → Nat
  | .free => 0
  | .copying _ _ o q => 1 + 4 * o.encode + 8 * bitNat q.isSome + 16 * q.elim 0 fun k => k.val
  | .active _ o => 2 + 4 * o.encode
  | .retired => 3

/-- The line of an entry, with its cursor from bit 20 on (R184). -/
def SpareEntry.extent : SpareEntry → Nat
  | .copying line cursor _ _ => line + 2 ^ 20 * cursor
  | .active line _ => line
  | _ => 0

/-- The fields of the Spare Map (R184). -/
def spareMapFields (map : PerSlot SpareEntry) : List (Nat × Nat) :=
  allSlots.flatMap fun n => [(1, (map.get n).status), (3, (map.get n).extent)]

theorem SpareEntry.bytes_eq (e : SpareEntry) : e.bytes = layoutBytes [(1, e.status), (3, e.extent)] := by
  cases e <;> rfl

theorem spareMapBytes_eq (map : PerSlot SpareEntry) : spareMapBytes map = layoutBytes (spareMapFields map) := by
  rw [spareMapBytes, layoutBytes, spareMapFields, List.flatMap_assoc]
  exact List.flatMap_congr fun n _ => (map.get n).bytes_eq

/-- The two fields of a slot (R184). -/
theorem spareMapFields_at (map : PerSlot SpareEntry) (n : Fin 8) :
    fieldAt (spareMapFields map) (4 * n.val) = some (1, (map.get n).status) ∧
    fieldAt (spareMapFields map) (4 * n.val + 1) = some (3, (map.get n).extent) := by
  match n with
  | 0 | 1 | 2 | 3 | 4 | 5 | 6 | 7 => exact ⟨rfl, rfl⟩

theorem SpareEntry.status_lt (e : SpareEntry) : e.status < 256 := by
  have origin (o : Origin) : o.encode ≤ 1 := by cases o <;> decide
  cases e with
  | free => decide
  | retired => decide
  | active line o =>
    have := origin o
    show 2 + 4 * o.encode < 256
    omega
  | copying line cursor o q =>
    have := origin o
    cases q with
    | none =>
      show 1 + 4 * o.encode + 8 * 0 + 16 * 0 < 256
      omega
    | some k =>
      have := k.isLt
      show 1 + 4 * o.encode + 8 * 1 + 16 * k.val < 256
      omega

/-- READ_SPARE_MAP: a slot's four bytes (R184). -/
theorem spareMap_layout (map : PerSlot SpareEntry) (n : Fin 8) :
    let b := spareMapBytes map
    b.length = 32 ∧ bytesAt b (4 * n.val) 1 = (map.get n).status ∧
      bytesAt b (4 * n.val + 1) 3 = (map.get n).extent % 2 ^ 24 := by
  intro b
  rw [show b = layoutBytes (spareMapFields map) from spareMapBytes_eq map]
  obtain ⟨status, extent⟩ := spareMapFields_at map n
  exact ⟨rfl, bytesAt_field_lt status (map.get n).status_lt, bytesAt_field extent⟩

/-! ### INSPECT -/

/-- The fields of INSPECT (R184). -/
def inspectFields (loc : Nat) (w : StoredWord) : List (Nat × Nat) :=
  [(3, loc), (4, w.data.toNat), (1, w.code.toNat + 128 * bitNat w.mark), (1, (decode w).outcome.encode),
    (1, encodeSyndrome (decode w).syndrome), (1, encodeBit (decode w).bit), (4, (decode w).data.toNat)]

theorem inspectBytes_eq (loc : Nat) (w : StoredWord) : inspectBytes loc w = layoutBytes (inspectFields loc w) := rfl

/-- INSPECT field by field (R184). -/
theorem inspect_layout (loc : Nat) (w : StoredWord) :
    let b := inspectBytes loc w
    b.length = 15 ∧ bytesAt b 0 3 = loc % 2 ^ 24 ∧ bytesAt b 3 4 = w.data.toNat ∧
    bytesAt b 7 1 = w.code.toNat + (if w.mark then 128 else 0) ∧
    bytesAt b 8 1 = (decode w).outcome.encode ∧
    bytesAt b 9 1 = encodeSyndrome (decode w).syndrome ∧ bytesAt b 10 1 = encodeBit (decode w).bit ∧
    bytesAt b 11 4 = (decode w).data.toNat := by
  intro b
  rw [show b = layoutBytes (inspectFields loc w) from inspectBytes_eq loc w, ← mul_bitNat]
  have check : w.code.toNat + 128 * bitNat w.mark < 256 := by
    have := w.code.isLt
    rw [mul_bitNat]
    split <;> omega
  have outcome : (decode w).outcome.encode < 256 := by cases (decode w).outcome <;> decide
  exact ⟨rfl, bytesAt_field rfl, bytesAt_field_lt rfl w.data.isLt, bytesAt_field_lt rfl check,
    bytesAt_field_lt rfl outcome, bytesAt_field_lt rfl (encodeSyndrome_lt _), bytesAt_field_lt rfl (encodeBit_lt _),
    bytesAt_field_lt rfl (decode w).data.isLt⟩

/-! ### A record -/

/-- The fields of a record (R183). -/
def ErrRecord.fields (r : ErrRecord) (index : Nat) : List (Nat × Nat) :=
  [(3, r.address), (1, r.location.encode), (1, r.kind.encode), (1, encodeBit r.bit), (1, encodeSyndrome r.syndrome),
    (1, r.count), (1, r.firstSource.encode), (1, r.lastSource.encode), (1, r.repair.encode), (1, bitNat r.faulted),
    (1, r.state.encode), (1, index)]

theorem ErrRecord.bytes_eq (r : ErrRecord) (index : Nat) : r.bytes index = layoutBytes (r.fields index) := rfl

theorem Location.encode_lt (k : Location) : k.encode < 256 := by
  cases k with
  | original => decide
  | slot n =>
    have := n.isLt
    show 8 + n.val < 256
    omega

theorem Source.encode_lt (k : Source) : k.encode < 256 := by
  cases k <;> decide

/-- A record field by field (R183). -/
theorem record_layout (r : ErrRecord) (index : Nat) :
    let b := r.bytes index
    b.length = 14 ∧ bytesAt b 0 3 = r.address % 2 ^ 24 ∧ bytesAt b 3 1 = r.location.encode ∧
    bytesAt b 4 1 = r.kind.encode ∧ bytesAt b 5 1 = encodeBit r.bit ∧ bytesAt b 6 1 = encodeSyndrome r.syndrome ∧
    bytesAt b 7 1 = r.count % 2 ^ 8 ∧ bytesAt b 8 1 = r.firstSource.encode ∧ bytesAt b 9 1 = r.lastSource.encode ∧
    bytesAt b 10 1 = r.repair.encode ∧ bytesAt b 11 1 = bitNat r.faulted ∧ bytesAt b 12 1 = r.state.encode ∧
    bytesAt b 13 1 = index % 2 ^ 8 := by
  intro b
  rw [show b = layoutBytes (r.fields index) from r.bytes_eq index]
  have kind : r.kind.encode < 256 := by cases r.kind <;> decide
  have repair : r.repair.encode < 256 := by cases r.repair <;> decide
  have state : r.state.encode < 256 := by cases r.state <;> decide
  exact ⟨rfl, bytesAt_field rfl, bytesAt_field_lt rfl r.location.encode_lt, bytesAt_field_lt rfl kind,
    bytesAt_field_lt rfl (encodeBit_lt _), bytesAt_field_lt rfl (encodeSyndrome_lt _), bytesAt_field rfl,
    bytesAt_field_lt rfl r.firstSource.encode_lt, bytesAt_field_lt rfl r.lastSource.encode_lt,
    bytesAt_field_lt rfl repair, bytesAt_field_lt rfl (bitNat_lt _), bytesAt_field_lt rfl state, bytesAt_field rfl⟩

/-! ### The commands -/

/-- The reports and RESET_PART are answered and do nothing else (R162, R176, R181). -/
theorem reports_answered (s : State) :
    (s.handed .identify = true → exec .identify s = .next (s.finish .ok (identifyBytes s.straps))) ∧
    (s.handed .readStatus = true → exec .readStatus s = .next (s.finish .ok s.statusBytes)) ∧
    (s.handed .readFaults = true → exec .readFaults s = .next (s.finish .ok s.faultBytes)) ∧
    (s.handed .readSpareMap = true → exec .readSpareMap s = .next (s.finish .ok (spareMapBytes s.spareMap))) ∧
    (s.handed .resetPart = true → exec .resetPart s = .next (s.finish .ok [])) :=
  ⟨s.serve_handed .identify fun t => t.finish .ok (identifyBytes t.straps),
    s.serve_handed .readStatus fun t => t.finish .ok t.statusBytes,
    s.serve_handed .readFaults fun t => t.finish .ok t.faultBytes,
    s.serve_handed .readSpareMap fun t => t.finish .ok (spareMapBytes t.spareMap),
    s.serve_handed .resetPart fun t => t.finish .ok []⟩

/-- Settles O43: the answers, and each payload field by field. -/
theorem answeredWithNothingElse : Obligations.AnsweredWithNothingElse := by
  refine ⟨reports_answered, identify_layout, status_layout, faults_layout, fun map n => ?_, inspect_layout,
    record_layout, ⟨rfl, rfl⟩, rfl, fun _ => rfl, fun _ => rfl, rfl, encodeSyndrome_some⟩
  obtain ⟨length, status, extent⟩ := spareMap_layout map n
  refine ⟨length, status.trans ?_, extent.trans ?_⟩
  · rcases map.get n with _ | ⟨_, _, o, _ | k⟩ | ⟨_, o⟩ | _
    · rfl
    · cases o <;> rfl
    · cases o <;> rfl
    · cases o <;> rfl
    · rfl
  · cases map.get n <;> rfl

end Sys2Proof.Machine
end

section
/-! The link stays as R163 to R171 say: what the receiver, the parser and the transmitter may change of it. -/

namespace Sys2Proof.Machine

/-! ### The frame buffer -/

/-- What `LinkOk` says of the frame buffer (R168). -/
def FrameOk (f : Frame) : Prop :=
  f.length ≤ 32 ∧ f.payload.length ≤ f.length ∧
    (f.position = .command ∨ f.position = .length → f.payload = []) ∧
    (f.position = .payload → f.payload.length < f.length)

/-- A frame that an address character opens is empty (R167). -/
theorem frameOk_opened (broadcast noise : Bool) :
    FrameOk { Frame.empty with broadcast := broadcast, noise := noise } :=
  ⟨Nat.zero_le _, Nat.le_refl _, fun _ => rfl, nofun⟩

/-- A character fills the field its position names (R168). -/
theorem FrameOk.fill {f g : Frame} {byte : Byte} {noise : Bool} (h : FrameOk f) (hg : f.fill byte noise = some g) :
    FrameOk g := by
  obtain ⟨length, payload, empty, short⟩ := h
  unfold Frame.fill at hg
  split at hg
  case h_1 hp =>
    obtain rfl := Option.some.inj hg
    exact ⟨length, payload, fun _ => empty (.inl hp), nofun⟩
  case h_2 hp =>
    obtain ⟨long, hg⟩ := Option.ite_none_left_eq_some.mp hg
    obtain rfl := Option.some.inj hg
    have none_yet : f.payload = [] := empty (.inr hp)
    refine ⟨Nat.not_lt.mp long, by simp [none_yet], fun _ => none_yet, fun hn => ?_⟩
    have positive : byte.toNat ≠ 0 := fun zero => by simp [zero] at hn
    simpa [none_yet] using Nat.pos_of_ne_zero positive
  case h_3 hp =>
    obtain rfl := Option.some.inj hg
    have room := short hp
    refine ⟨length, by simpa using room, fun hn => ?_, fun hn => ?_⟩
    · dsimp only at hn
      split at hn <;> simp at hn
    · simpa using hn
  case h_4 =>
    obtain rfl := Option.some.inj hg
    exact ⟨length, payload, nofun, nofun⟩
  case h_5 =>
    obtain rfl := Option.some.inj hg
    exact ⟨length, payload, empty, short⟩

/-! ### The link -/

/-- The accumulator of a unit is 0 to 7 (R164). -/
theorem accAfter_le (t : Timing) (bits : Nat) (h : t.fraction ≤ 7) : accAfter t bits ≤ 7 := by
  rw [accAfter_eq t bits h]
  omega

namespace LinkOk

variable {l : Link} (h : LinkOk l)
include h

theorem frameOk : FrameOk l.frame := by
  obtain ⟨_, _, length, payload, empty, short, _⟩ := h
  exact ⟨length, payload, empty, short⟩

/-- What the receiver and the FIFO may change: the frame timer keeps running where it runs (R165, R166, R169). -/
theorem received (r : Receiver) {acc : Nat} {t : Timing} {items : List FifoItem} {overrun : Bool} {timer : Option Nat}
    (hacc : acc ≤ 7) (ht : t.fraction ≤ 7) (room : items.length ≤ 4) (full : overrun = true → items.length = 4)
    (runs : timer.isSome = l.frameTimer.isSome) :
    LinkOk { l with
      receiver := r, rxAcc := acc, rxTiming := t, fifo := items, overrun := overrun, frameTimer := timer } := by
  obtain ⟨_, _, length, payload, empty, short, timing, sending, _, tx, _, inUse⟩ := h
  exact ⟨room, full, length, payload, empty, short, runs ▸ timing, sending, hacc, tx, ht, inUse⟩

/-- What the parser and the transmitter may change: the frame timer runs exactly while a frame is collected, and SVC_TX
is driven exactly while a response goes out (R163, R168, R169, R171). -/
theorem parsed {p : Parser} {f : Frame} {timer : Option Nat} {acc : Nat} {tx : SvcTx} {t : Timing} (hf : FrameOk f)
    (collects : timer.isSome = true ↔ p = .collect ∧ f.position ≠ .complete)
    (sends : tx = .sending ↔ p.responds = true) (hacc : acc ≤ 7) (ht : t.fraction ≤ 7) :
    LinkOk { l with parser := p, frame := f, frameTimer := timer, txAcc := acc, svcTx := tx, inUse := t } := by
  obtain ⟨room, full, _, _, _, _, _, _, rx, _, rxTiming, _⟩ := h
  obtain ⟨length, payload, empty, short⟩ := hf
  exact ⟨room, full, length, payload, empty, short, collects, sends, rx, hacc, rxTiming, ht⟩

/-! ### The receiver and the FIFO -/

theorem startBit (samples : BitVec 3) : LinkOk (l.startBit samples) := by
  have ⟨room, full, _, _, _, _, _, _, _, _, _, inUse⟩ := h
  exact h.received _ (Nat.zero_le 7) inUse room full (by simp)

theorem deliver (item : FifoItem) : LinkOk (l.deliver item) := by
  have ⟨room, full, _, _, _, _, _, _, rx, _, timing, _⟩ := h
  unfold Link.deliver
  split
  · rename_i free
    have not_pending : l.overrun = true → (l.fifo ++ [item]).length = 4 := fun pending => by
      have := full pending
      omega
    exact h.received l.receiver rx timing (by simpa using free) not_pending rfl
  · exact h.received l.receiver rx timing room (fun _ => by omega) rfl

theorem endCharacter (noise : Bool) (samples : BitVec 30) : LinkOk (l.endCharacter noise samples) := by
  have ⟨room, full, _, _, _, _, _, _, _, _, timing, _⟩ := h
  have ended : LinkOk { l with receiver := .idle, rxAcc := accAfter l.rxTiming (characterBits samples) } :=
    h.received .idle (accAfter_le _ _ timing) timing room full rfl
  have delivered := ended.deliver (receivedItem noise samples)
  have ⟨room, full, _, _, _, _, _, _, rx, _, timing, _⟩ := delivered
  exact delivered.received _ rx timing room full (by simp)

theorem broken : LinkOk l.broken := by
  have ⟨_, _, _, _, _, _, _, _, _, _, timing, _⟩ := h
  exact h.received _ (accAfter_le _ _ timing) timing (Nat.zero_le 4) nofun rfl

/-- An item is taken from the FIFO, and the marker of a pending overrun takes its place (R166). -/
theorem taken {item : FifoItem} {rest : List FifoItem} (hl : l.fifo = item :: rest) : LinkOk (l.taken rest) := by
  have ⟨room, _, _, _, _, _, _, _, rx, _, timing, _⟩ := h
  have shorter : rest.length < 4 := by simpa [hl, Nat.succ_le_iff] using room
  refine h.received l.receiver rx timing ?_ nofun rfl
  split
  · simpa using shorter
  · exact shorter.le

/-! ### The parser and the transmitter -/

/-- The timing in use is taken from the settings (R164). -/
theorem retimed {t : Timing} (ht : t.fraction ≤ 7) : LinkOk { l with inUse := t } := by
  have ⟨_, _, _, _, _, _, timer, sending, _, tx, _, _⟩ := h
  exact h.parsed h.frameOk timer sending tx ht

theorem beginResponse (characters : List Byte) (resetPart : Bool) : LinkOk (l.beginResponse characters resetPart) := by
  have ⟨_, _, _, _, _, _, _, _, _, _, _, inUse⟩ := h
  exact h.parsed h.frameOk ⟨nofun, nofun⟩ ⟨fun _ => rfl, fun _ => rfl⟩ (Nat.zero_le 7) inUse

/-- The parser leaves SVC_TX alone where it is in HUNT, COLLECT and EXECUTE alone (R163, R171). -/
theorem silent {p : Parser} {f : Frame} {timer : Option Nat} (hf : FrameOk f)
    (collects : timer.isSome = true ↔ p = .collect ∧ f.position ≠ .complete) (before : l.parser.responds = false)
    (after : p.responds = false) : LinkOk { l with parser := p, frame := f, frameTimer := timer } := by
  have ⟨_, _, _, _, _, _, _, sending, _, tx, _, inUse⟩ := h
  rw [before] at sending
  exact h.parsed hf collects (after ▸ sending) tx inUse

theorem toHunt (quiet : l.parser.responds = false) : LinkOk l.toHunt :=
  h.silent h.frameOk ⟨nofun, nofun⟩ quiet rfl

/-- A frame that passes its checks (R170). -/
theorem toExecute (quiet : l.parser.responds = false) : LinkOk { l with parser := .execute, frameTimer := none } :=
  h.silent h.frameOk ⟨nofun, nofun⟩ quiet rfl

theorem openFrame (broadcast noise : Bool) (quiet : l.parser.responds = false) :
    LinkOk (l.openFrame broadcast noise) :=
  h.silent (frameOk_opened broadcast noise) ⟨fun _ => ⟨rfl, nofun⟩, fun _ => rfl⟩ quiet rfl

theorem fillFrame (byte : Byte) (noise : Bool) (collects : l.parser = .collect) (going : l.frame.position ≠ .complete) :
    LinkOk (l.fillFrame byte noise) := by
  have ⟨_, _, _, _, _, _, timer, _⟩ := h
  have quiet : l.parser.responds = false := collects ▸ rfl
  unfold Link.fillFrame
  split
  · exact h.toHunt quiet
  · rename_i f hf
    refine h.silent (h.frameOk.fill hf) ?_ quiet quiet
    by_cases done : f.position = .complete
    · simp [done]
    · simpa [done, collects] using timer.mpr ⟨collects, going⟩

theorem hunted (station : BitVec 6) (item : FifoItem) (hunts : l.parser = .hunt) : LinkOk (l.hunted station item) := by
  have quiet : l.parser.responds = false := hunts ▸ rfl
  unfold Link.hunted
  split
  · split
    · exact h.openFrame _ _ quiet
    · exact h
  all_goals exact h

theorem collected (station : BitVec 6) (item : FifoItem) (collects : l.parser = .collect)
    (going : l.frame.position ≠ .complete) : LinkOk (l.collected station item) := by
  have quiet : l.parser.responds = false := collects ▸ rfl
  unfold Link.collected
  split
  · split
    · exact h.openFrame _ _ quiet
    · exact h.toHunt quiet
  · exact h.fillFrame _ _ collects going
  all_goals exact h.toHunt quiet

end LinkOk
end Sys2Proof.Machine
end

section
/-! Every step keeps the link and the command in execution as R163 to R172 say. -/

namespace Sys2Proof.Machine

/-- SET_SETTING puts no fraction above 7 (R182). -/
theorem Settings.put_linkFraction {st su : Settings} {lines : Nat} {item : Byte} {v : Nat}
    (h : st.linkFraction ≤ 7) (hput : st.put lines item v = some su) : su.linkFraction ≤ 7 := by
  unfold Settings.put at hput
  split at hput
  case h_17 =>
    obtain ⟨hv, hst⟩ := Option.ite_none_right_eq_some.mp hput
    obtain rfl := Option.some.inj hst
    exact ((within_iff _ _ _).mp hv).2
  case h_18 =>
    split at hput
    · obtain rfl := Option.some.inj hput
      exact h
    · cases hput
  all_goals
    obtain ⟨_, hst⟩ := Option.ite_none_right_eq_some.mp hput
    obtain rfl := Option.some.inj hst
    exact h

theorem State.putSetting_linkFraction (s : State) (item : Byte) (value : Word) (h : s.settings.linkFraction ≤ 7) :
    (s.putSetting item value).2.linkFraction ≤ 7 := by
  unfold State.putSetting
  split
  · exact h
  · rename_i st hput
    split
    · exact h
    · split
      · exact h
      · exact Settings.put_linkFraction h hput

/-- A character that fills a field leaves the parser in COLLECT, and a bad length takes it to HUNT (R168). -/
theorem Link.fillFrame_parser (l : Link) (byte : Byte) (noise : Bool) :
    (l.fillFrame byte noise).parser = .hunt ∨ (l.fillFrame byte noise).parser = l.parser := by
  unfold Link.fillFrame
  split
  · exact .inl rfl
  · exact .inr rfl

/-- No item takes the parser to EXECUTE by itself (R167, R168). -/
theorem Link.hunted_parser (l : Link) (station : BitVec 6) (item : FifoItem) (h : l.parser ≠ .execute) :
    (l.hunted station item).parser ≠ .execute := by
  unfold Link.hunted
  split
  · split
    · exact nofun
    · exact h
  all_goals exact h

theorem Link.collected_parser (l : Link) (station : BitVec 6) (item : FifoItem) (h : l.parser ≠ .execute) :
    (l.collected station item).parser ≠ .execute := by
  unfold Link.collected
  split
  · split <;> exact nofun
  · rcases l.fillFrame_parser _ _ with filled | filled <;> rw [filled]
    · exact nofun
    · exact h
  all_goals exact nofun

namespace ServiceOk

/-- The settings, the link and the command in execution are all that is looked at. -/
theorem congr {s t : State} (h : ServiceOk s) (settings : t.settings = s.settings) (link : t.link = s.link)
    (executing : t.executing = s.executing) : ServiceOk t := by
  unfold ServiceOk CommandOk
  rw [settings, link, executing]
  exact h

/-- The traffic on the array reaches none of them. -/
theorem keptByTraffic : KeptByTraffic ServiceOk where
  traffic h ht := by
    rw [ht]
    exact h
  lock h _ := h
  occur _ h := h
  skip h := h

variable {s : State} (h : ServiceOk s)
include h

theorem settle : ServiceOk s.settle := keptByTraffic.settle h

theorem settled : Leaves ServiceOk (.next s.settle) := .next h.settle

/-! ### The parser and the command in execution -/

/-- The receiver, and the parser outside EXECUTE, leave the Command Unit alone (R172). -/
theorem linked {l : Link} (hl : LinkOk l) (hp : l.parser = .execute ↔ s.link.parser = .execute) :
    ServiceOk { s with link := l } := by
  obtain ⟨fraction, _, command⟩ := h
  exact ⟨fraction, hl, hp.trans command⟩

/-- A link whose parser is not in EXECUTE, and no command but a withdrawn one (R172). -/
theorem idle {l : Link} {e : Option Execution} (hl : LinkOk l) (hp : l.parser ≠ .execute)
    (he : ∀ x, e = some x → x.withdrawn = true) : ServiceOk { s with link := l, executing := e } := by
  obtain ⟨fraction, _⟩ := h
  refine ⟨fraction, hl, fun executes => (hp executes).elim, ?_⟩
  rintro ⟨x, hx, going⟩
  exact (Bool.false_ne_true (going.symm.trans (he x hx))).elim

/-- Outside EXECUTE no command but a withdrawn one is being carried out (R172). -/
theorem withdrawn (hp : s.link.parser ≠ .execute) : ∀ x, s.executing = some x → x.withdrawn = true := by
  intro x hx
  obtain ⟨_, _, command⟩ := h
  by_contra going
  exact hp (command.mpr ⟨x, hx, by simpa using going⟩)

/-- The checks of a complete frame, while no command is being carried out (R170). -/
theorem checkFrame (collects : s.link.parser = .collect) (free : s.executing = none) : ServiceOk s.checkFrame := by
  have ⟨fraction, link, _⟩ := h
  have quiet : s.link.parser.responds = false := collects ▸ rfl
  have away {l : Link} (hl : LinkOk l) (hp : l.parser ≠ .execute) : ServiceOk { s with link := l } :=
    h.idle hl hp (by simp [free])
  unfold State.checkFrame
  split
  · split
    · exact away (link.toHunt quiet) nofun
    · exact away (link.beginResponse _ _) nofun
  · split
    · exact ⟨fraction, link.toExecute quiet, fun _ => ⟨_, rfl, rfl⟩, fun _ => rfl⟩
    · exact h

theorem resumeFrame : ServiceOk s.resumeFrame := by
  unfold State.resumeFrame
  split
  · rename_i waits
    obtain ⟨collects, _, free⟩ := waits
    exact h.checkFrame collects free
  · exact h

/-- A change of link timing takes effect (R164). -/
theorem acknowledged (resetPart : Bool) : ServiceOk (s.acknowledged resetPart) := by
  obtain ⟨fraction, link, command⟩ := h
  exact ⟨fraction, link.retimed fraction, command⟩

/-- A command that is not withdrawn ends with the parser in EXECUTE, so that SVC_TX is free for its response (R170 to
R172). -/
theorem finish (st : Status) (payload : List Byte) : ServiceOk (s.finish st payload) := by
  have ⟨_, link, command⟩ := h
  unfold State.finish
  split
  · exact h
  · rename_i e he
    extract_lets t resetPart
    split
    · rename_i gone
      have elsewhere : s.link.parser ≠ .execute := fun executes => by
        obtain ⟨x, hx, going⟩ := command.mp executes
        obtain rfl := Option.some.inj (he.symm.trans hx)
        exact Bool.false_ne_true (going.symm.trans gone)
      have ended : ServiceOk t := h.idle link elsewhere nofun
      exact (ended.acknowledged _).resumeFrame
    · rename_i going
      have executes : s.link.parser = .execute := command.mpr ⟨e, he, by simpa using going⟩
      split
      · have dropped : ServiceOk { t with link := t.link.toHunt } :=
          h.idle (link.toHunt (executes ▸ rfl)) nofun nofun
        exact dropped.acknowledged _
      · exact h.idle (link.beginResponse _ _) nofun nofun

/-- The Command Unit's answer, after what reaches neither the link nor its timing. -/
theorem finishing {t : State} (st : Status) (payload : List Byte) (settings : t.settings = s.settings := by rfl)
    (link : t.link = s.link := by rfl) (executing : t.executing = s.executing := by rfl) :
    ServiceOk (t.finish st payload) :=
  (h.congr settings link executing).finish st payload

/-- A response ends and SVC_TX is released (R163, R171, R172). -/
theorem endResponse {characters : List Byte} {resetPart : Bool} (sent : List Byte)
    (responds : s.link.parser = .respond characters resetPart) : ServiceOk (s.endResponse sent resetPart) := by
  have ⟨fraction, link, _⟩ := h
  have ⟨_, _, _, _, _, _, _, _, _, _, _, inUse⟩ := link
  have ended : LinkOk { s.link with
      parser := .hunt, frameTimer := none, txAcc := accAfter s.link.inUse (11 * sent.length), svcTx := .released,
      inUse := s.settings.timing } :=
    link.parsed link.frameOk ⟨nofun, nofun⟩ ⟨nofun, nofun⟩ (accAfter_le _ _ inUse) fraction
  exact h.idle ended nofun (h.withdrawn (by simp [responds]))

/-- A break withdraws the response of the command in execution (R172). -/
theorem breakParser (sent : Nat) : ServiceOk (s.breakParser sent) := by
  have ⟨_, link, _⟩ := h
  unfold State.breakParser
  split
  · exact h
  · rename_i collects
    exact h.linked (link.toHunt (collects ▸ rfl)) (by simp [Link.toHunt, collects])
  · rename_i executes
    refine h.idle (link.toHunt (executes ▸ rfl)) nofun fun x hx => ?_
    obtain ⟨_, _, rfl⟩ := Option.map_eq_some_iff.mp hx
    rfl
  · exact h.endResponse _ ‹_›

/-! ### The commands of the link -/

theorem execStartBitDetected (samples : BitVec 3) : Leaves ServiceOk (execStartBitDetected samples s) := by
  have ⟨_, link, _⟩ := h
  exact .guarded h fun _ => h.linked (link.startBit samples) .rfl

theorem execCharacterReceived (samples : BitVec 30) : Leaves ServiceOk (execCharacterReceived samples s) := by
  have ⟨_, link, _⟩ := h
  unfold Machine.execCharacterReceived
  split
  · refine .next (h.linked (link.endCharacter _ samples) ?_)
    unfold Link.endCharacter Link.deliver
    split <;> exact .rfl
  · exact .next h

theorem execReceiverReturnsToIdle : Leaves ServiceOk (execReceiverReturnsToIdle s) := by
  unfold Machine.execReceiverReturnsToIdle
  split <;> exact .next h

theorem execBreakReceived (sent : Nat) : Leaves ServiceOk (execBreakReceived sent s) := by
  have ⟨_, link, _⟩ := h
  have broken : ServiceOk { s with link := s.link.broken } := h.linked link.broken .rfl
  unfold Machine.execBreakReceived
  split
  · exact .guarded h fun _ => broken.breakParser sent
  · exact .next h

theorem execParserTakesItem : Leaves ServiceOk (execParserTakesItem s) := by
  have ⟨_, link, _⟩ := h
  unfold Machine.execParserTakesItem
  split
  · rename_i item rest hunts full
    have waits : s.link.parser ≠ .execute := by simp [hunts]
    have stays := (s.link.taken rest).hunted_parser s.straps.station item waits
    exact .next (h.linked ((link.taken full).hunted _ item hunts) (iff_of_false stays waits))
  · rename_i item rest collects full
    have waits : s.link.parser ≠ .execute := by simp [collects]
    have stays := (s.link.taken rest).collected_parser s.straps.station item waits
    split
    · exact .next h
    · rename_i going
      have filled := (link.taken full).collected s.straps.station item collects going
      exact .next (h.linked filled (iff_of_false stays waits)).resumeFrame
  · exact .next h

theorem execFrameTimerExpiry : Leaves ServiceOk (execFrameTimerExpiry s) := by
  have ⟨_, link, _⟩ := h
  refine .guarded h fun ⟨collects, _⟩ => ?_
  exact h.linked (link.toHunt (collects ▸ rfl)) (by simp [Link.toHunt, collects])

theorem execResponseSent : Leaves ServiceOk (execResponseSent s) := by
  unfold Machine.execResponseSent
  split
  · exact .next (h.endResponse _ ‹_›)
  · exact .next h

/-! ### The migration -/

theorem releaseLines (n : Nat) : ServiceOk (State.releaseLines n s) := by
  induction n generalizing s with
  | zero => exact h
  | succ n ih =>
    unfold State.releaseLines
    split
    · exact h
    · rename_i line _
      have released : ServiceOk (s.released line) := h
      exact ih released

theorem execMigrationStart : Leaves ServiceOk (execMigrationStart s) := by
  have started (line : Nat) (origin : Origin) (n : Fin 8) : ServiceOk (s.startMigration line origin n) := h
  unfold Machine.execMigrationStart
  split
  · split
    · exact .next h
    · split
      · exact (started _ _ _).settled
      · exact (h.releaseLines _).settled
  · exact .next h

theorem execMigrationRead (u : Upset) : Leaves ServiceOk (execMigrationRead u s) := by
  unfold Machine.execMigrationRead
  split
  · rename_i a loc location orphan _
    extract_lets t w r
    have opened : ServiceOk t := h
    have reported : ServiceOk r := keptByTraffic.directReport opened _ _ _ _ _ _
    refine settled ?_
    split <;> exact reported
  · exact .next h

theorem execMigrationWrite : Leaves ServiceOk (execMigrationWrite s) := by
  unfold Machine.execMigrationWrite
  split
  · refine settled ?_
    split <;> exact h
  · exact .next h

/-- What the end of a VERIFY does reaches the map, the engine, the records and the Fault Unit (R121 to R124). -/
theorem endVerify (n : Fin 8) (equal : Bool) : ServiceOk (s.endVerify n equal) := by
  unfold State.endVerify
  split
  · split
    · unfold State.verified
      split <;> exact h
    · unfold State.verifyFailed
      dsimp only
      split <;> exact h
  · exact h

theorem endOrphanVerify (n : Fin 8) (equal : Bool) : ServiceOk (s.endOrphanVerify n equal) := by
  unfold State.endOrphanVerify
  split <;> exact h

theorem execMigrationVerify (u : Upset) : Leaves ServiceOk (execMigrationVerify u s) := by
  unfold Machine.execMigrationVerify
  split
  · rename_i n loc w orphan _
    have opened : ServiceOk (s.opened loc u) := h
    refine settled ?_
    split
    · exact opened.endOrphanVerify n _
    · exact opened.endVerify n _
  · exact .next h

/-! ### The scrub, the tick and the system reset -/

/-- A SCRUB_STOP that waited for the grant is answered (R145). -/
theorem endScrubGrant : ServiceOk s.endScrubGrant := by
  unfold State.endScrubGrant
  split
  · exact h.finishing _ _
  · exact h

theorem execScrubWord (u : Upset) : Leaves ServiceOk (execScrubWord u s) := by
  unfold Machine.execScrubWord
  split
  · rename_i a loc location orphan _
    extract_lets m w t
    have stored : ServiceOk { s with mem := if scrubbedWord w = w then m else m.write loc (scrubbedWord w) } := h
    have reported : ServiceOk t := keptByTraffic.scrubReport stored _ _ _
    have ended : ServiceOk { (if orphan then t else t.advanceScrub) with grant := none } := by
      split <;> exact reported
    exact ended.endScrubGrant.settled
  · exact .next h

theorem execTick : Leaves ServiceOk (execTick s) := by
  have expired : ServiceOk s.takeExpiries := by
    unfold State.takeExpiries
    split <;> exact h
  have ticked : ServiceOk { s.takeExpiries with
      lock := s.takeExpiries.lock.map Lock.ticked, scrub := s.takeExpiries.scrub.ticked,
      tickLength := s.takeExpiries.settings.tickDivisor } := expired
  exact ticked.settled

theorem execLockHoldExpiry : Leaves ServiceOk (execLockHoldExpiry s) := by
  have expired : ServiceOk s.expireLock := h
  exact .guarded h fun _ => expired.settle

theorem execScrubIntervalExpiry : Leaves ServiceOk (execScrubIntervalExpiry s) := by
  have expired : ServiceOk s.expireInterval := h
  exact .guarded h fun _ => expired.settle

/-- The link and the command in execution go on over a system reset (R174). -/
theorem execSystemReset (cause : ResetCause) : Leaves ServiceOk (execSystemReset cause s) := by
  have fallen : ServiceOk { s.systemReset with rstN := false } := h
  have taken : ServiceOk { s.systemReset with resetDue := false } := h
  cases cause with
  | rstnFalls => exact .guarded h fun _ => fallen.settle
  | resetPart => exact .guarded h fun _ => taken.settle

omit h in
/-- The link and the Command Unit at power-on (R174). -/
theorem execPowerOn (straps : Straps) (level : Bool) : Leaves ServiceOk (execPowerOn straps level s) := by
  obtain ⟨_, link, command⟩ := serviceOk_reset
  have on : ServiceOk (s.poweredOn straps level) := ⟨Nat.zero_le 7, link, command⟩
  exact on.settled

/-! ### Service commands -/

/-- A command that begins to wait is withdrawn or not as before (R170). -/
theorem waitForGrant : ServiceOk s.waitForGrant := by
  obtain ⟨fraction, link, command⟩ := h
  refine ⟨fraction, link, command.trans ?_⟩
  cases hx : s.executing <;> simp [State.waitForGrant, hx]

/-- A service command that is answered with a payload and does nothing else. -/
theorem answered (c : SvcCommand) (payload : State → List Byte) :
    Leaves ServiceOk (s.serve c fun t => t.finish .ok (payload t)) :=
  .served c h (h.finish .ok (payload s))

theorem execClearFaults (mask : BitVec 16) : Leaves ServiceOk (execClearFaults mask s) := by
  refine .served _ h ?_
  split <;> exact h.finishing _ _

theorem execReleaseMode : Leaves ServiceOk (execReleaseMode s) := .served _ h (h.finishing _ _).settle

theorem execReadRecords (index count : Byte) : Leaves ServiceOk (execReadRecords index count s) := by
  refine .served _ h ?_
  split <;> exact h.finish _ _

theorem execCloseRecord (address : BitVec 24) : Leaves ServiceOk (execCloseRecord address s) := by
  refine .served _ h ?_
  split
  · exact h.finish _ _
  · split <;> exact h.finishing _ _

theorem execClearRecords : Leaves ServiceOk (execClearRecords s) := .served _ h (h.finishing _ _)

theorem execSpareLine (line : BitVec 24) : Leaves ServiceOk (execSpareLine line s) := by
  refine .served _ h ?_
  split
  · exact h.finish _ _
  · split
    · exact h.finish _ _
    · split
      · exact h.finish _ _
      · exact (h.finishing _ _).settle

theorem execScrubStart (mode : Byte) : Leaves ServiceOk (execScrubStart mode s) := by
  refine .served _ h ?_
  split
  · exact h.finish _ _
  · split
    · exact h.finish _ _
    · exact (h.finishing _ _).settle

theorem execScrubStop : Leaves ServiceOk (execScrubStop s) := by
  have stopped : ServiceOk { s with scrub := s.scrub.stop } := h
  refine .served _ h ?_
  dsimp only
  split
  · exact h.waitForGrant
  · split
    · exact stopped.waitForGrant
    · exact (stopped.finish _ _).settle

theorem execGetSetting (item : Byte) : Leaves ServiceOk (execGetSetting item s) := by
  refine .served _ h ?_
  split <;> exact h.finish _ _

/-- A change of the link's timing waits for the end of the response (R164, R182). -/
theorem execSetSetting (item : Byte) (value : Word) : Leaves ServiceOk (execSetSetting item value s) := by
  have ⟨fraction, rest⟩ := h
  have put : ServiceOk { s with settings := (s.putSetting item value).2 } :=
    ⟨s.putSetting_linkFraction item value fraction, rest⟩
  unfold Machine.execSetSetting
  split
  · exact .next h
  · exact .served _ h (put.finish _ _)

theorem execSetReaction (source : FaultSource) (value : Word) :
    Leaves ServiceOk (execSetReaction source value s) := by
  have reacted (r : Reaction) : ServiceOk (s.react source r) := h
  refine .served _ h ?_
  split
  · exact h.finish _ _
  · exact ((reacted _).finish _ _).settle

theorem execInspect (location : BitVec 24) : Leaves ServiceOk (execInspect location s) := by
  refine .served _ h ?_
  split
  · exact h.finish _ _
  · split
    · exact h.finish _ _
    · exact h.waitForGrant.settle

theorem execInspectRead (u : Upset) : Leaves ServiceOk (execInspectRead u s) := by
  unfold Machine.execInspectRead
  split
  · exact .next (h.finishing _ _).settle
  · exact .next h

end ServiceOk

/-! ### Every command -/

/-- Every command keeps the link and the command in execution consistent. -/
theorem exec_serviceOk (c : Instr) {s : State} (h : ServiceOk s) : Leaves ServiceOk (exec c s) := by
  have kept := ServiceOk.keptByTraffic
  cases c with
  | powerOn straps rstN => exact .execPowerOn straps rstN
  | systemReset cause => exact h.execSystemReset cause
  | rstNRises => exact kept.execRstNRises h
  | resetCompletes => exact kept.execResetCompletes h
  | fillBegins => exact kept.execFillBegins h
  | readRequest | writeRequest | lockedReadRequest | lockedWriteRequest =>
    exact .guarded h fun _ => kept.present h _
  | writeInsertion => exact kept.execWriteInsertion h
  | writeCompletion => exact kept.execWriteCompletion h
  | readBeatRetaken => exact kept.execReadBeatRetaken h
  | foregroundRead u => exact kept.execForegroundRead h u
  | lockedReadDecode u => exact kept.execLockedReadDecode h u
  | drainEnd u => exact kept.execDrainEnd h u
  | prefetchRead u => exact kept.execPrefetchRead h u
  | fillWrite => exact kept.execFillWrite h
  | migrationStart => exact h.execMigrationStart
  | migrationRead u => exact h.execMigrationRead u
  | migrationWrite => exact h.execMigrationWrite
  | migrationVerify u => exact h.execMigrationVerify u
  | scrubWord u => exact h.execScrubWord u
  | tick => exact h.execTick
  | lockHoldExpiry => exact h.execLockHoldExpiry
  | scrubIntervalExpiry => exact h.execScrubIntervalExpiry
  | startBitDetected samples => exact h.execStartBitDetected samples
  | characterReceived samples => exact h.execCharacterReceived samples
  | receiverReturnsToIdle => exact h.execReceiverReturnsToIdle
  | breakReceived sent => exact h.execBreakReceived sent
  | parserTakesItem => exact h.execParserTakesItem
  | frameTimerExpiry => exact h.execFrameTimerExpiry
  | responseSent => exact h.execResponseSent
  | identify => exact h.answered .identify fun t => identifyBytes t.straps
  | readStatus => exact h.answered .readStatus State.statusBytes
  | readFaults => exact h.answered .readFaults State.faultBytes
  | readSpareMap => exact h.answered .readSpareMap fun t => spareMapBytes t.spareMap
  | resetPart => exact h.answered .resetPart fun _ => []
  | clearFaults mask => exact h.execClearFaults mask
  | releaseMode => exact h.execReleaseMode
  | readRecords index count => exact h.execReadRecords index count
  | closeRecord address => exact h.execCloseRecord address
  | clearRecords => exact h.execClearRecords
  | spareLine line => exact h.execSpareLine line
  | scrubStart mode => exact h.execScrubStart mode
  | scrubStop => exact h.execScrubStop
  | getSetting item => exact h.execGetSetting item
  | setSetting item value => exact h.execSetSetting item value
  | setReaction source value => exact h.execSetReaction source value
  | inspect location => exact h.execInspect location
  | inspectRead u => exact h.execInspectRead u

/-- Settles O59: on an empty queue of commands a step idles, and otherwise it runs the command at the front. -/
theorem linkStaysConsistent : Obligations.LinkStaysConsistent := by
  intro s t h ht
  unfold step at ht
  split at ht
  · obtain rfl := Host.Outcome.next.inj ht
    exact h
  · rename_i c cs _
    have front : ServiceOk (s.withPending cs) := h
    exact exec_serviceOk c front t ht

end Sys2Proof.Machine
end

section
/-! The bits of a character as they are sent and as they are received (R163, R165). -/

namespace Sys2Proof.Machine

/-! ### Words made bit by bit -/

/-- Bit m of a word into which values are merged, each under its condition. -/
theorem getLsbD_foldl_or {w : Nat} (p : Nat → Bool) (v : Nat → BitVec w) (m : Nat) (ks : List Nat) :
    ∀ x : BitVec w, (ks.foldl (fun y k => if p k then y ||| v k else y) x).getLsbD m =
      (x.getLsbD m || ks.any fun k => p k && (v k).getLsbD m) := by
  induction ks with
  | nil => simp
  | cons k ks ih =>
    intro x
    rw [List.foldl_cons, ih, List.any_cons]
    cases p k <;> simp [Bool.or_assoc]

/-- One of `n` positions alone is at `m`. -/
theorem any_range_and_eq (p : Nat → Bool) (n m : Nat) :
    ((List.range n).any fun k => p k && decide (k = m)) = (decide (m < n) && p m) := by
  rw [Bool.eq_iff_iff]
  simp only [List.any_eq_true, List.mem_range, Bool.and_eq_true, decide_eq_true_eq]
  constructor
  · rintro ⟨k, hk, hp, rfl⟩
    exact ⟨hk, hp⟩
  · exact fun ⟨hm, hp⟩ => ⟨m, hm, hp, rfl⟩

/-! ### Three samples of a bit -/

/-- The value of a bit is its majority (R165). -/
theorem majority_eq (x : BitVec 3) :
    majority x = decide (2 ≤ (List.range 3).countP fun i => x.getLsbD i) := by
  revert x
  decide

/-- Samples disagree where some but not all of them are high (R165). -/
theorem disagree_iff (x : BitVec 3) :
    disagree x = true ↔ (List.range 3).countP (fun i => x.getLsbD i) = 1 ∨
      (List.range 3).countP (fun i => x.getLsbD i) = 2 := by
  revert x
  decide

/-- Low samples disagree where any of them is high (R165). -/
theorem disagree_of_low (x : BitVec 3) (low : majority x = false) : disagree x = decide (x ≠ 0) := by
  revert x
  decide

/-- Three samples at one level. -/
def steady (level : Bool) : BitVec 3 := if level then 7 else 0

@[simp] theorem majority_steady (level : Bool) : majority (steady level) = level := by
  cases level <;> rfl

@[simp] theorem disagree_steady (level : Bool) : disagree (steady level) = false := by
  cases level <;> rfl

theorem getLsbD_steady (level : Bool) (j : Nat) (h : j < 3) : (steady level).getLsbD j = level := by
  cases level
  · exact BitVec.getLsbD_zero
  · interval_cases j <;> rfl

/-! ### The samples of a character -/

theorem getLsbD_sampleOf (x : BitVec 30) (k j : Nat) (h : j < 3) :
    (sampleOf x k).getLsbD j = x.getLsbD (3 * k + j) := by
  simp [sampleOf, h]

/-- How many of the samples of bit k are high. -/
theorem countP_sampleOf (x : BitVec 30) (k : Nat) :
    ((List.range 3).countP fun j => (sampleOf x k).getLsbD j) = (List.range 3).countP fun j => x.getLsbD (3 * k + j) :=
  List.countP_congr fun j hj => by rw [getLsbD_sampleOf x k j (List.mem_range.mp hj)]

/-- The data bits are the majorities of the first eight bits' samples, least significant first (R163, R165). -/
theorem getLsbD_byteOf (x : BitVec 30) (k : Nat) (h : k < 8) : (byteOf x).getLsbD k = majority (sampleOf x k) := by
  have place (i : Nat) : (BitVec.ofNat 8 (2 ^ i)).getLsbD k = decide (i = k) := by
    rw [BitVec.getLsbD_ofNat, Nat.testBit_two_pow, decide_eq_true h, Bool.true_and]
  rw [byteOf, getLsbD_foldl_or]
  simp only [place, any_range_and_eq, h, decide_true, Bool.true_and, BitVec.ofNat_eq_ofNat, BitVec.getLsbD_zero,
    Bool.false_or]

theorem noisy_iff (x : BitVec 30) : noisy x = true ↔ ∃ k < 10, disagree (sampleOf x k) = true := by
  simp [noisy]

/-- All bits are low where the byte is 0 and mark and stop are low (R165). -/
theorem allLow_iff (x : BitVec 30) : allLow x = true ↔ byteOf x = 0 ∧ markOf x = false ∧ stopOf x = false := by
  simp [allLow, and_assoc]

/-! ### A character sent without noise -/

/-- The level of bit k after the start bit: data 0 to 7, the mark, the stop, which is high (R163). -/
def levelOf (byte : Byte) (mark : Bool) (k : Nat) : Bool :=
  if k < 8 then byte.getLsbD k else if k = 8 then mark else true

/-- Three ones from place 3i on. -/
theorem getLsbD_three_ones (i k j : Nat) (hk : k < 10) (hj : j < 3) :
    (BitVec.ofNat 30 (7 * 2 ^ (3 * i))).getLsbD (3 * k + j) = decide (i = k) := by
  have inside : 3 * k + j < 30 := by omega
  have ones (n : Nat) : (7 : Nat).testBit n = decide (n < 3) := Nat.testBit_two_pow_sub_one 3 n
  rw [BitVec.getLsbD_ofNat, Nat.testBit_mul_two_pow, ones, decide_eq_true inside, Bool.true_and, ← Bool.decide_and,
    decide_eq_decide]
  omega

/-- Each of the three samples of a bit is at the bit's level (R163). -/
theorem getLsbD_cleanSamples (byte : Byte) (mark : Bool) (k j : Nat) (hk : k < 10) (hj : j < 3) :
    (cleanSamples byte mark).getLsbD (3 * k + j) = levelOf byte mark k := by
  have marked : (if mark then BitVec.ofNat 30 (7 * 2 ^ 24) else 0).getLsbD (3 * k + j) = (mark && decide (8 = k)) := by
    cases mark
    · exact BitVec.getLsbD_zero
    · exact getLsbD_three_ones 8 k j hk hj
  have stopped : (BitVec.ofNat 30 (7 * 2 ^ 27)).getLsbD (3 * k + j) = decide (9 = k) := getLsbD_three_ones 9 k j hk hj
  simp only [cleanSamples, getLsbD_foldl_or, getLsbD_three_ones _ k j hk hj, any_range_and_eq, BitVec.getLsbD_or, marked,
    stopped, levelOf]
  have split : k < 8 ∨ k = 8 ∨ k = 9 := by omega
  rcases split with data | rfl | rfl
  · simp [data, show 8 ≠ k by omega, show 9 ≠ k by omega]
  · simp
  · simp

theorem sampleOf_cleanSamples (byte : Byte) (mark : Bool) (k : Nat) (hk : k < 10) :
    sampleOf (cleanSamples byte mark) k = steady (levelOf byte mark k) := by
  refine BitVec.eq_of_getLsbD_eq fun j hj => ?_
  rw [getLsbD_sampleOf _ _ _ hj, getLsbD_cleanSamples _ _ _ _ hk hj, getLsbD_steady _ _ hj]

/-- A character sent without noise is received as it was sent (R163, R165). -/
theorem cleanSamples_received (byte : Byte) (mark : Bool) :
    stopOf (cleanSamples byte mark) = true ∧ byteOf (cleanSamples byte mark) = byte ∧
    markOf (cleanSamples byte mark) = mark ∧ noisy (cleanSamples byte mark) = false := by
  refine ⟨?_, BitVec.eq_of_getLsbD_eq fun k hk => ?_, ?_, ?_⟩
  · simp [stopOf, sampleOf_cleanSamples, levelOf]
  · rw [getLsbD_byteOf _ _ hk, sampleOf_cleanSamples _ _ _ (by omega), majority_steady, levelOf, if_pos hk]
  · simp [markOf, sampleOf_cleanSamples, levelOf]
  · rw [← Bool.not_eq_true, noisy_iff]
    rintro ⟨k, hk, noise⟩
    rw [sampleOf_cleanSamples _ _ _ hk, disagree_steady] at noise
    exact Bool.false_ne_true noise

end Sys2Proof.Machine
end

section
/-! The receiver and the FIFO (R164 to R166, R169): the start bit, the return to idle, and the end of a character. -/

namespace Sys2Proof.Machine

/-! ### The start bit and the return to idle -/

theorem exec_startBitDetected_idle (s : State) (x : BitVec 3) (h : s.link.receiver = .idle) :
    exec (.startBitDetected x) s = .next { s with link := s.link.startBit x } := if_pos h

theorem exec_startBitDetected_busy (s : State) (x : BitVec 3) (h : s.link.receiver ≠ .idle) :
    exec (.startBitDetected x) s = .next s := if_neg h

/-- A start bit begins a character, whose noise is any high sample, unless its majority is high (R165). -/
theorem Link.startBit_eq (l : Link) (x : BitVec 3) : l.startBit x = { l with
    receiver := if 2 ≤ (List.range 3).countP (fun i => x.getLsbD i) then .idle else .receiving (decide (x ≠ 0)),
    rxAcc := 0, rxTiming := l.inUse, frameTimer := l.frameTimer.map fun _ => 0 } := by
  have begun : (if majority x then Receiver.idle else .receiving (disagree x)) =
      if 2 ≤ (List.range 3).countP (fun i => x.getLsbD i) then .idle else .receiving (decide (x ≠ 0)) := by
    by_cases high : 2 ≤ (List.range 3).countP fun i => x.getLsbD i
    · rw [if_pos high, if_pos (by rw [majority_eq, decide_eq_true high])]
    · have low : majority x = false := by rw [majority_eq, decide_eq_false high]
      rw [if_neg high, low, disagree_of_low x low]
      rfl
  rw [← begun]
  rfl

/-- Settles O36: the start bit in idle and out of it, and the receiver's own return to idle. -/
theorem receiverStartsAndReturns : Obligations.ReceiverStartsAndReturns := by
  refine ⟨fun s x => ⟨fun idle => ?_, exec_startBitDetected_busy s x⟩, fun s => ⟨fun out => ?_, fun on ended => ?_⟩⟩
  · rw [exec_startBitDetected_idle s x idle, Link.startBit_eq]
  · rcases out with h | h <;> simp only [exec, execReceiverReturnsToIdle, h]
  · show execReceiverReturnsToIdle s = .next s
    unfold execReceiverReturnsToIdle
    split
    · exact absurd ‹_› on
    · exact absurd ‹_› ended
    · rfl

/-! ### The end of a character -/

/-- An item is lost, with overrun pending, where the FIFO holds 4 (R166). -/
theorem Link.deliver_eq (l : Link) (item : FifoItem) : l.deliver item = { l with
    fifo := if l.fifo.length < 4 then l.fifo ++ [item] else l.fifo,
    overrun := decide (4 ≤ l.fifo.length) || l.overrun } := by
  unfold Link.deliver
  split
  · rename_i room
    rw [decide_eq_false (Nat.not_le.mpr room), Bool.false_or]
  · rename_i full
    rw [decide_eq_true (Nat.not_lt.mp full), Bool.true_or]

theorem Link.endCharacter_eq (l : Link) (noise : Bool) (x : BitVec 30) : l.endCharacter noise x = { l with
    receiver := .idle, rxAcc := accAfter l.rxTiming (characterBits x), frameTimer := l.frameTimer.map fun _ => 0,
    fifo := if l.fifo.length < 4 then l.fifo ++ [receivedItem noise x] else l.fifo,
    overrun := decide (4 ≤ l.fifo.length) || l.overrun } := by
  rw [Link.endCharacter, Link.deliver_eq]
  rfl

theorem exec_characterReceived (s : State) (x : BitVec 30) (noise : Bool) (h : s.link.receiver = .receiving noise) :
    exec (.characterReceived x) s = .next { s with link := s.link.endCharacter noise x } := by
  simp only [exec, execCharacterReceived, h]

theorem characterBits_eq (x : BitVec 30) :
    characterBits x = if byteOf x = 0 ∧ markOf x = false ∧ stopOf x = false then 12 else 11 :=
  if_congr (allLow_iff x) rfl rfl

/-- Settles O37: what is delivered, the value and the noise of each bit, and a character sent without noise. -/
theorem characterDelivered : Obligations.CharacterDelivered := by
  refine ⟨fun s x noise h => ?_, fun x => ?_, fun b mark j hj => ⟨fun k hk => ?_, ?_, ?_⟩, cleanSamples_received⟩
  · refine ⟨_, accAfter s.link.rxTiming (characterBits x), exec_characterReceived s x noise h, ?_, fun fraction => ?_⟩
    · rw [Link.endCharacter_eq]
      rfl
    · rw [accAfter_eq _ _ fraction, characterBits_eq]
  · have value (k : Nat) : majority (sampleOf x k) =
        decide (2 ≤ (List.range 3).countP fun j => x.getLsbD (3 * k + j)) := by
      rw [majority_eq, countP_sampleOf]
    refine ⟨fun k hk => (getLsbD_byteOf x k hk).trans (value k), value 8, value 9, ?_⟩
    simp only [noisy_iff, disagree_iff, countP_sampleOf]
  · rw [getLsbD_cleanSamples b mark k j (by omega) hj, levelOf, if_pos hk]
  · exact getLsbD_cleanSamples b mark 8 j (by omega) hj
  · exact getLsbD_cleanSamples b mark 9 j (by omega) hj

end Sys2Proof.Machine
end

section
/-! The parser: an item taken in HUNT and in COLLECT (R166 to R169), and the checks of a complete frame (R170, R175). -/

namespace Sys2Proof.Machine

/-! ### Items taken -/

/-- An address character names the station, or every station by 63 (R167). -/
theorem addressed?_of_named {station : BitVec 6} {b : Byte} (h : b = 63 ∨ b.toNat = station.toNat) :
    addressed? station b = some (decide (b = 63)) := by
  have broadcast : b.toNat = 63 ↔ b = 63 := (BitVec.toNat_inj (y := (63 : Byte)))
  unfold addressed?
  by_cases all : b = 63
  · rw [if_pos (broadcast.mpr all), decide_eq_true all]
  · rw [if_neg (mt broadcast.mp all), if_pos (h.resolve_left all), decide_eq_false all]

theorem addressed?_of_foreign {station : BitVec 6} {b : Byte} (h : b ≠ 63) (hs : b.toNat ≠ station.toNat) :
    addressed? station b = none := by
  have broadcast : b.toNat = 63 ↔ b = 63 := (BitVec.toNat_inj (y := (63 : Byte)))
  rw [addressed?, if_neg (mt broadcast.mp h), if_neg hs]

/-- Every item but an address character that names the station is ignored in HUNT (R167). -/
theorem Link.hunted_ignored (l : Link) {station : BitVec 6} {item : FifoItem}
    (h : ∀ b noise, item = .character b true noise → b ≠ 63 ∧ b.toNat ≠ station.toNat) : l.hunted station item = l := by
  unfold Link.hunted
  split
  · rename_i b noise
    obtain ⟨single, foreign⟩ := h b noise rfl
    rw [addressed?_of_foreign single foreign]
  all_goals rfl

/-- A frame that is not complete has nothing to wait for (R170). -/
theorem State.resumeFrame_of_incomplete (s : State)
    (h : s.link.parser = .collect → s.link.frame.position = .complete → s.executing ≠ none) : s.resumeFrame = s :=
  if_neg fun ⟨collects, complete, free⟩ => h collects complete free

section
variable {s : State} {item : FifoItem} {rest : List FifoItem} (full : s.link.fifo = item :: rest)
include full

theorem exec_parserTakesItem_hunt (hunts : s.link.parser = .hunt) : exec .parserTakesItem s =
    .next { s with link := (s.link.taken rest).hunted s.straps.station item } := by
  simp only [exec, execParserTakesItem, hunts, full]

theorem exec_parserTakesItem_collect (collects : s.link.parser = .collect)
    (going : s.link.frame.position ≠ .complete) : exec .parserTakesItem s =
    .next { s with link := (s.link.taken rest).collected s.straps.station item }.resumeFrame := by
  simp only [exec, execParserTakesItem, collects, full, if_neg going]

/-- Where the frame is left in COLLECT before it is complete, or discarded, nothing more happens (R168). -/
theorem exec_parserTakesItem_left {l : Link} (collects : s.link.parser = .collect)
    (going : s.link.frame.position ≠ .complete) (hl : (s.link.taken rest).collected s.straps.station item = l)
    (left : l.parser = .collect → l.frame.position ≠ .complete) :
    exec .parserTakesItem s = .next { s with link := l } := by
  rw [exec_parserTakesItem_collect full collects going, hl]
  exact congrArg _ (State.resumeFrame_of_incomplete _ fun still done => (left still done).elim)

/-- An item that discards the frame (R168). -/
theorem exec_parserTakesItem_discards (collects : s.link.parser = .collect)
    (going : s.link.frame.position ≠ .complete)
    (hl : (s.link.taken rest).collected s.straps.station item = (s.link.taken rest).toHunt) :
    exec .parserTakesItem s = .next { s with link := (s.link.taken rest).toHunt } :=
  exec_parserTakesItem_left full collects going hl nofun

end

/-- A character that fills a field and does not complete the frame (R168). -/
theorem exec_parserTakesItem_fills {s : State} {b : Byte} {noise : Bool} {rest : List FifoItem} {g : Frame}
    (full : s.link.fifo = .character b false noise :: rest) (collects : s.link.parser = .collect)
    (going : s.link.frame.position ≠ .complete) (hg : s.link.frame.fill b noise = some g)
    (left : g.position ≠ .complete) :
    exec .parserTakesItem s = .next { s with link := { s.link.taken rest with frame := g } } := by
  refine exec_parserTakesItem_left full collects going ?_ fun _ => left
  have filled : (s.link.taken rest).frame.fill b noise = some g := hg
  simp only [Link.collected, Link.fillFrame, filled, if_neg left]

/-- Settles O39: an item in HUNT, and an item in COLLECT by the field that is due. -/
theorem parserTakesItem : Obligations.ParserTakesItem := by
  constructor
  · intro s item rest hunts full
    refine ⟨?_, fun ignored => ?_⟩
    · rintro b noise rfl named
      rw [exec_parserTakesItem_hunt full hunts, Link.hunted, addressed?_of_named named]
      rfl
    · rw [exec_parserTakesItem_hunt full hunts, Link.hunted_ignored _ ignored]
      rfl
  · intro s item rest collects full going f l discarded filled
    refine ⟨?_, ?_, ?_, ?_⟩
    · rintro b noise rfl
      refine ⟨fun hp => ?_, fun hp long => ?_, fun hp fits => ?_, fun hp => ?_⟩
      · exact exec_parserTakesItem_fills full collects going (by rw [Frame.fill, hp]) nofun
      · refine exec_parserTakesItem_discards full collects going ?_
        have bad : (s.link.taken rest).frame.fill b noise = none := by
          show s.link.frame.fill b noise = none
          rw [Frame.fill, hp]
          exact if_pos long
        simp only [Link.collected, Link.fillFrame, bad]
      · refine exec_parserTakesItem_fills full collects going ?_ ?_
        · rw [Frame.fill, hp]
          refine (if_neg (Nat.not_lt.mpr fits)).trans ?_
          have zero : b.toNat = 0 ↔ b = 0 := (BitVec.toNat_inj (y := (0 : Byte)))
          simp only [zero, f]
        · split <;> nofun
      · refine exec_parserTakesItem_fills full collects going (by rw [Frame.fill, hp]) ?_
        split <;> nofun
    · rintro b noise rfl named
      have opened : (s.link.taken rest).collected s.straps.station (.character b true noise) =
          (s.link.taken rest).openFrame (decide (b = 63)) noise := by
        rw [Link.collected, addressed?_of_named named]
      rw [exec_parserTakesItem_left full collects going opened fun _ => nofun, Link.openFrame, ← collects]
      rfl
    · rintro b noise rfl single foreign
      refine exec_parserTakesItem_discards full collects going ?_
      rw [Link.collected, addressed?_of_foreign single foreign]
    · rintro (rfl | rfl) <;> exact exec_parserTakesItem_discards full collects going rfl

/-! ### Sums and numbers of bytes -/

/-- A sum of bytes from any byte on. -/
theorem foldl_add_bytes (bs : List Byte) : ∀ b : Byte, bs.foldl (· + ·) b = b + byteSum bs := by
  induction bs with
  | nil => exact fun b => (BitVec.add_zero b).symm
  | cons x bs ih =>
    intro b
    have sum : byteSum (x :: bs) = x + byteSum bs := by rw [byteSum, List.foldl_cons, zero_add, ih]
    rw [List.foldl_cons, ih, sum, BitVec.add_assoc]

@[simp] theorem byteSum_nil : byteSum [] = 0 := rfl

@[simp] theorem byteSum_cons (b : Byte) (bs : List Byte) : byteSum (b :: bs) = b + byteSum bs := by
  rw [byteSum, List.foldl_cons, zero_add, foldl_add_bytes]

@[simp] theorem byteSum_append (bs cs : List Byte) : byteSum (bs ++ cs) = byteSum bs + byteSum cs := by
  rw [byteSum, List.foldl_append, foldl_add_bytes]
  rfl

/-- The checksum of bytes brings their sum to 0 (R171). -/
theorem byteSum_checksumOf (bs : List Byte) : byteSum (bs ++ [checksumOf bs]) = 0 := by
  simp [checksumOf]

/-- The number of one byte. -/
theorem ofNat_leNat_singleton (a : Byte) : BitVec.ofNat 8 (leNat [a]) = a := by
  simp [leNat]

/-- The first byte of a number is its least significant one (R175). -/
theorem ofNat_leNat_cons (w : Nat) (a : Byte) (bs : List Byte) :
    BitVec.ofNat (w + 8) (leNat (a :: bs)) = BitVec.ofNat w (leNat bs) ++ a := by
  have low := a.isLt
  have first : (a.toNat + 256 * leNat bs) % 2 ^ 8 = a.toNat := by omega
  have others : (a.toNat + 256 * leNat bs) / 2 ^ 8 = leNat bs := by omega
  apply BitVec.eq_of_toNat_eq
  rw [BitVec.toNat_append, ← Nat.shiftLeft_add_eq_or_of_lt low, Nat.shiftLeft_eq, BitVec.toNat_ofNat,
    BitVec.toNat_ofNat, leNat, Nat.pow_add', Nat.mod_mul, first, others]
  omega

theorem leNat_two (a b : Byte) : BitVec.ofNat 16 (leNat [a, b]) = b ++ a := by
  rw [ofNat_leNat_cons 8, ofNat_leNat_singleton]

theorem leNat_three (a b c : Byte) : BitVec.ofNat 24 (leNat [a, b, c]) = c ++ b ++ a := by
  rw [ofNat_leNat_cons 16, leNat_two]

theorem leNat_four (a b c d : Byte) : BitVec.ofNat 32 (leNat [a, b, c, d]) = d ++ c ++ b ++ a := by
  rw [ofNat_leNat_cons 24, leNat_three]

/-! ### Commands -/

/-- The argument bytes by code (R175). -/
theorem argumentBytes_eq (b : Byte) : argumentBytes b = if b = 0 then none else
    ([0, 0, 0, 2, 0, 2, 3, 0, 0, 3, 1, 0, 1, 5, 3, 0] : List Nat)[b.toNat - 1]? := by
  have zero : b = 0 ↔ b.toNat = 0 := (BitVec.toNat_inj (y := (0 : Byte))).symm
  simp only [zero]
  unfold argumentBytes
  split
  case h_17 =>
    split
    · rfl
    · refine (List.getElem?_eq_none ?_).symm
      show 16 ≤ b.toNat - 1
      simp only [imp_false] at *
      omega
  all_goals
    rename_i code
    rw [code]
    rfl

/-- The codes of the commands are 1 to 16 (R175). -/
theorem code_of_argumentBytes {b : Byte} {n : Nat} (h : argumentBytes b = some n) : 1 ≤ b.toNat ∧ b.toNat ≤ 16 := by
  obtain ⟨code, h⟩ := Option.ite_none_left_eq_some.mp ((argumentBytes_eq b).symm.trans h)
  obtain ⟨listed, _⟩ := List.getElem?_eq_some_iff.mp h
  have : b.toNat ≠ 0 := fun zero => code (BitVec.eq_of_toNat_eq zero)
  have : b.toNat - 1 < 16 := listed
  omega

/-- Each of these codes names a command (R175). -/
theorem svcCommand_of_argumentBytes {b : Byte} {n : Nat} (h : argumentBytes b = some n) (payload : List Byte) :
    ∃ c, svcCommand b payload = some c := by
  have code := code_of_argumentBytes h
  unfold svcCommand
  split
  case h_17 =>
    simp only [imp_false] at *
    omega
  all_goals exact ⟨_, rfl⟩

/-! ### The checks -/

section
variable (f : Frame)

theorem Frame.failure_checksum (h : byteSum f.summed ≠ 0) : f.failure = some .badChecksum := if_pos h

theorem Frame.failure_command (h : byteSum f.summed = 0) (unknown : argumentBytes f.command = none) :
    f.failure = some .unknownCommand := by
  simp only [Frame.failure, h, ne_eq, not_true_eq_false, if_false, unknown]

theorem Frame.failure_length {n : Nat} (h : byteSum f.summed = 0) (known : argumentBytes f.command = some n) :
    f.failure = if f.length = n then none else some .badLength := by
  simp only [Frame.failure, h, ne_eq, not_true_eq_false, if_false, known]

end

section
variable (s : State)

/-- A frame that fails a check is answered with that status, or dropped where it was broadcast (R170, R171). -/
theorem State.checkFrame_failed {st : Status} (h : s.link.frame.failure = some st) : s.checkFrame =
    if s.link.frame.broadcast then { s with link := s.link.toHunt }
    else { s with link := s.link.beginResponse (response st [] s.link.frame.noise) false } := by
  simp only [State.checkFrame, h]

/-- A frame that passes its checks is handed over (R170). -/
theorem State.checkFrame_passed {c : SvcCommand} (h : s.link.frame.failure = none)
    (named : svcCommand s.link.frame.command s.link.frame.payload = some c) : s.checkFrame = { s with
      link := { s.link with parser := .execute, frameTimer := none },
      executing := some ⟨c, s.link.frame.broadcast, false, false⟩ } := by
  simp only [State.checkFrame, h, named]

end

/-- The checksum character completes the frame, which then passes to its checks once the unit is free (R168, R170). -/
theorem exec_parserTakesItem_completes {s : State} {b : Byte} {noise : Bool} {rest : List FifoItem}
    (full : s.link.fifo = .character b false noise :: rest) (collects : s.link.parser = .collect)
    (last : s.link.frame.position = .checksum) : exec .parserTakesItem s =
      .next { s with link := { s.link.taken rest with
        frameTimer := none,
        frame := { s.link.frame with
          checksum := b, position := .complete, noise := s.link.frame.noise || noise } } }.resumeFrame := by
  have filled : (s.link.taken rest).frame.fill b noise = some { s.link.frame with
      checksum := b, position := .complete, noise := s.link.frame.noise || noise } := by
    show s.link.frame.fill b noise = _
    rw [Frame.fill, last]
  rw [exec_parserTakesItem_collect full collects (by simp [last])]
  simp only [Link.collected, Link.fillFrame, filled, if_true]

/-- Settles O40: sums and commands, the frame that is complete, and its checks in their order. -/
theorem completeFrameChecked : Obligations.CompleteFrameChecked := by
  refine ⟨⟨byteSum_nil, byteSum_cons⟩, argumentBytes_eq,
    ⟨rfl, rfl, rfl, rfl, rfl, rfl, rfl, rfl, fun a b c d e => ?_⟩, fun s b noise rest collects full last => ?_,
    fun s => ?_⟩
  · rw [← leNat_two a b, ← leNat_three a b c, ← leNat_four b c d e]
    exact ⟨rfl, rfl, rfl, rfl, rfl, rfl, rfl, rfl⟩
  · intro t
    rw [exec_parserTakesItem_completes full collects last]
    refine ⟨fun busy => ?_, fun free => ?_⟩
    · exact congrArg _ (State.resumeFrame_of_incomplete t fun _ _ => busy)
    · exact congrArg _ (if_pos ⟨collects, rfl, free⟩ : t.resumeFrame = t.checkFrame)
  · intro f sum answered
    refine ⟨fun bad => ?_, fun good unknown => ?_, fun n good known other => ?_, fun good known => ?_⟩
    · exact s.checkFrame_failed (f.failure_checksum bad)
    · exact s.checkFrame_failed (f.failure_command good unknown)
    · exact s.checkFrame_failed ((f.failure_length good known).trans (if_neg other))
    · obtain ⟨c, named⟩ := svcCommand_of_argumentBytes known f.payload
      exact ⟨c, named, s.checkFrame_passed ((f.failure_length good known).trans (if_pos rfl)) named⟩

end Sys2Proof.Machine
end

section
/-! Responses and the ends of commands (R163, R164, R169 to R173, R181), and the break (R165, R166, R172). -/

namespace Sys2Proof.Machine

/-! ### Responses -/

theorem exec_responseSent (s : State) {cs : List Byte} {b : Bool} (h : s.link.parser = .respond cs b) :
    exec .responseSent s = .next (s.endResponse cs b) := by
  simp only [exec, execResponseSent, h]

/-- The characters of a response that comes to an end have gone out; a change of link timing is then in force and the
reset of a RESET_PART is due (R163, R164, R171, R181). -/
theorem State.endResponse_eq (s : State) (cs : List Byte) (b : Bool) : s.endResponse cs b = { s with
    link := { s.link with
      parser := .hunt, frameTimer := none, txAcc := accAfter s.link.inUse (11 * cs.length), svcTx := .released,
      inUse := ⟨s.settings.linkDivisor, s.settings.linkFraction⟩ },
    svcSent := s.svcSent ++ [cs.flatMap sentBits], resetDue := s.resetDue || b } := rfl

/-- The payload goes with OK alone (R171). -/
theorem Status.length_payload (st : Status) (payload : List Byte) :
    (st.payload payload).length = if st = .ok then payload.length else 0 := by
  unfold Status.payload
  split <;> rfl

/-- The characters of a response (R171). -/
theorem response_eq (st : Status) (payload : List Byte) (noise : Bool) : ∃ x, response st payload noise =
    BitVec.ofNat 8 (st.code + if noise then 128 else 0) ::
      BitVec.ofNat 8 (if st = .ok then payload.length else 0) :: ((if st = .ok then payload else []) ++ [x]) := by
  refine ⟨checksumOf (st.byte noise :: BitVec.ofNat 8 (st.payload payload).length :: st.payload payload), ?_⟩
  rw [← st.length_payload]
  rfl

/-- Settles O41: the end of a response and of a frame timer, the bits of a character, and a response's characters. -/
theorem responseSentAndTimerExpired : Obligations.ResponseSentAndTimerExpired := by
  refine ⟨⟨fun s cs b h => ?_, fun s => ⟨fun collects runs => ?_, fun elsewhere => ?_⟩⟩, fun b => ?_, rfl,
    fun st payload noise _ => ⟨byteSum_checksumOf _, response_eq st payload noise⟩⟩
  · exact ⟨_, accAfter s.link.inUse (11 * cs.length), exec_responseSent s h, s.endResponse_eq cs b,
      accAfter_eq _ _⟩
  · exact if_pos ⟨collects, runs⟩
  · exact if_neg fun ⟨collects, _⟩ => elsewhere collects
  · exact ⟨sentBits_length b, rfl, rfl, rfl, sentBits_data b⟩

/-! ### The end of a command -/

/-- A command is handed to the Command Unit while it does not wait (log 23). -/
theorem State.handed_iff (s : State) (c : SvcCommand) :
    s.handed c = true ↔ ∃ b w, s.executing = some ⟨c, b, w, false⟩ := by
  unfold State.handed
  split
  · rename_i e he
    obtain ⟨command, broadcast, withdrawn, waiting⟩ := e
    simp [he]
  · rename_i he
    simp [he]

section
variable (s : State) {e : Execution} (st : Status) (payload : List Byte) (he : s.executing = some e)
include he

/-- A unicast command is answered (R171). -/
theorem State.finish_answered (going : e.withdrawn = false) (unicast : e.broadcast = false) :
    s.finish st payload = { s with
      executing := none,
      link := s.link.beginResponse (response st payload s.link.frame.noise) (decide (e.command = .resetPart)) } := by
  simp only [State.finish, he, going, unicast, Bool.false_eq_true, if_false]

/-- A broadcast command sends nothing (R170, R171). -/
theorem State.finish_broadcast (going : e.withdrawn = false) (broadcast : e.broadcast = true) :
    s.finish st payload =
      ({ s with executing := none, link := s.link.toHunt } : State).acknowledged (decide (e.command = .resetPart)) := by
  simp only [State.finish, he, going, broadcast, Bool.false_eq_true, if_false, if_true]

/-- A command whose response a break has withdrawn sends nothing, and leaves the unit to a frame that waits (R170,
R172). -/
theorem State.finish_withdrawn (gone : e.withdrawn = true) : s.finish st payload =
    (({ s with executing := none } : State).acknowledged (decide (e.command = .resetPart))).resumeFrame := by
  simp only [State.finish, he, gone, if_true]

end

/-- Settles O42: what is handed over, and the end of a command by its own fields. -/
theorem commandEnds : Obligations.CommandEnds := by
  refine ⟨State.handed_iff, fun s e st payload he => ?_⟩
  intro timing due
  refine ⟨s.finish_answered st payload he, s.finish_broadcast st payload he, fun gone idle => ?_,
    fun gone collects complete => ?_⟩
  · rw [s.finish_withdrawn st payload he gone]
    exact State.resumeFrame_of_incomplete _ fun collects complete => (idle ⟨collects, complete⟩).elim
  · rw [s.finish_withdrawn st payload he gone]
    exact if_pos ⟨collects, complete, rfl⟩

/-! ### The break -/

theorem exec_breakReceived (s : State) {noise : Bool} {n : Nat} (h : s.link.receiver = .receiving noise) (hn : 1 ≤ n) :
    exec (.breakReceived n) s = .next (({ s with link := s.link.broken } : State).breakParser n) := by
  have taken : (Instr.breakReceived n).wellFormed = true := decide_eq_true hn
  simp only [exec, execBreakReceived, h, if_pos taken]

/-- How many characters of a response a break lets out (R172, log 13). -/
def cutAt (characters : List Byte) (sent : Nat) : Nat := max 1 (min sent (characters.length - 1))

theorem cutResponse_eq (characters : List Byte) (sent : Nat) :
    cutResponse characters sent = characters.take (cutAt characters sent) := rfl

/-- Settles O38: the receiver and the FIFO first, then the parser by its state. -/
theorem breakResetsParser : Obligations.BreakResetsParser := by
  intro s noise n h hn
  refine ⟨_, accAfter s.link.rxTiming 12, exec_breakReceived s h hn, accAfter_eq _ _, fun hp => ?_, fun hp => ?_,
    fun hp => ?_, fun cs b hp => ?_⟩
  · simp only [State.breakParser, Link.broken, hp]
  · simp only [State.breakParser, Link.broken, hp, Link.toHunt]
  · simp only [State.breakParser, Link.broken, hp, State.withdraw, Link.toHunt]
  · refine ⟨cutAt cs n, accAfter s.link.inUse (11 * (cs.take (cutAt cs n)).length), fun two => ?_, fun before => ?_,
      accAfter_eq _ _, ?_⟩
    · unfold cutAt
      omega
    · unfold cutAt
      omega
    · have cut : ({ s with link := s.link.broken } : State).breakParser n =
          ({ s with link := s.link.broken } : State).endResponse (cs.take (cutAt cs n)) b := by
        simp only [State.breakParser, Link.broken, hp, cutResponse_eq]
      exact cut

end Sys2Proof.Machine
end

section
/-! INSPECT: its refusals, its wait for the SERVICE grant, and the read that answers it (R65, R180). -/

namespace Sys2Proof.Machine

/-! ### The command -/

section
variable (s : State) (loc : BitVec 24) (handed : s.handed (.inspect loc) = true)
include handed

theorem exec_inspect_beyond (beyond : s.straps.populated ≤ loc.toNat) :
    exec (.inspect loc) s = .next (s.finish .badArgument []) := by
  simp only [exec, execInspect, s.serve_handed _ _ handed, if_pos beyond]

theorem exec_inspect_busy (inside : loc.toNat < s.straps.populated) (reset : s.resetInProgress = true) :
    exec (.inspect loc) s = .next (s.finish .busy []) := by
  simp only [exec, execInspect, s.serve_handed _ _ handed, if_neg (Nat.not_le.mpr inside), if_pos reset]

theorem exec_inspect_waits (inside : loc.toNat < s.straps.populated) (ready : s.resetInProgress = false) :
    exec (.inspect loc) s = .next s.waitForGrant.settle := by
  have not_reset : ¬ s.resetInProgress = true := Bool.eq_false_iff.mp ready
  simp only [exec, execInspect, s.serve_handed _ _ handed, if_neg (Nat.not_le.mpr inside), if_neg not_reset]

/-- The SERVICE request stands from when the command begins to wait (R65, R180). -/
theorem State.waitForGrant_stands_service : s.waitForGrant.stands .service = true := by
  obtain ⟨broadcast, withdrawn, executing⟩ := (s.handed_iff _).mp handed
  refine s.waitForGrant.stands_service_iff.mpr ⟨loc, broadcast, withdrawn, ?_⟩
  simp only [State.waitForGrant, executing, Option.map_some]

end

/-! ### The grant -/

/-- The end of a SERVICE grant in general: the array is free, and the command answers with the word as found and its
decode (R180). -/
theorem exec_inspectRead (s : State) (loc : Nat) (o : Bool) (u : Upset) (hm : s.mem.wf = true)
    (hg : s.grant = some ⟨.service loc, o⟩) :
    exec (.inspectRead u) s = .next ((s.opened loc u).finish .ok (inspectBytes loc (s.found loc u))).settle := by
  simp only [exec, execInspectRead, hg, s.opened_read loc u hm]

/-- Settles O20: the command by its location and the reset, then the grant it waits for. -/
theorem inspectCarriedOut : Obligations.InspectCarriedOut := by
  refine ⟨fun s loc handed => ⟨exec_inspect_beyond s loc handed, exec_inspect_busy s loc handed,
    fun inside ready => ?_⟩, fun s loc o u hm hg => ?_⟩
  · exact ⟨exec_inspect_waits s loc handed inside ready, s.waitForGrant_stands_service loc handed⟩
  · exact ⟨holds_disturbed s loc u hm, exec_inspectRead s loc o u hm hg⟩

end Sys2Proof.Machine
end

section
/-! A step runs the command at the front of the queue of commands on the rest of it, and idles where there is none
(log 3). -/

namespace Sys2Proof.Machine

theorem step_front {s : State} {c : Instr} {cs : List Instr} (h : s.pending = c :: cs) :
    step s = exec c (s.withPending cs) := by
  unfold step
  rw [h]

theorem step_idle {s : State} (h : s.pending = []) : step s = .next s := by
  unfold step
  rw [h]

/-- Settles O1: the two cases of the queue of commands. -/
theorem stepRunsFrontCommand : Obligations.StepRunsFrontCommand :=
  ⟨fun _ _ _ h => step_front h, fun _ h => step_idle h⟩

end Sys2Proof.Machine
end

section
/-! What no operation of the part undoes: the queue of commands stands (log 3, log 21), what has left the part is only
added to (log 10), and the array stays in canonical form (log 6). -/

namespace Sys2Proof.Machine

/-- From `s` to `t` the queue of commands is left as it is, nothing that has left the part is taken back, and the
canonical form of the array is kept. -/
def Continues (s t : State) : Prop :=
  t.pending = s.pending ∧ s.upSent <+: t.upSent ∧ s.svcSent <+: t.svcSent ∧ (s.mem.wf = true → t.mem.wf = true)

namespace Continues

theorem refl (s : State) : Continues s s := ⟨rfl, ⟨[], List.append_nil _⟩, ⟨[], List.append_nil _⟩, id⟩

variable {s t : State} (h : Continues s t)
include h

/-- What reaches neither the array, nor what has been sent, nor the queue of commands. -/
theorem inside {u : State} (pending : u.pending = t.pending := by simp) (upSent : u.upSent = t.upSent := by simp)
    (svcSent : u.svcSent = t.svcSent := by simp) (mem : u.mem = t.mem := by simp) : Continues s u := by
  unfold Continues
  rw [pending, upSent, svcSent, mem]
  exact h

/-- An upstream response is added to those sent (R19). -/
theorem respond (y : UpResponse) : Continues s (t.respond y) := by
  obtain ⟨pending, upSent, svcSent, array⟩ := h
  exact ⟨pending, upSent.trans ⟨_, rfl⟩, svcSent, array⟩

/-- The response of a service command goes out (R163). -/
theorem transmitted (characters : List Byte) : Continues s (t.transmitted characters) := by
  obtain ⟨pending, upSent, svcSent, array⟩ := h
  exact ⟨pending, upSent, svcSent.trans ⟨_, rfl⟩, array⟩

/-- A change of the array that keeps its canonical form. -/
theorem array {m : Memory} (hm : t.mem.wf = true → m.wf = true) : Continues s { t with mem := m } := by
  obtain ⟨pending, upSent, svcSent, array⟩ := h
  exact ⟨pending, upSent, svcSent, hm ∘ array⟩

theorem opened (loc : Nat) (u : Upset) : Continues s (t.opened loc u) := h.array (t.mem.wf_disturbed loc u)

theorem store (loc : Nat) (w : StoredWord) : Continues s (t.store loc w) := h.array (t.mem.wf_write loc w)

theorem storeDual (dual : Option Nat) (w : StoredWord) : Continues s (t.storeDual dual w) := by
  cases dual with
  | none => exact h
  | some loc => exact h.store loc w

theorem occurOpt (src : Option FaultSource) : Continues s (t.occurOpt src) := h.inside

theorem settle : Continues s t.settle := h.inside

/-! ### Reports -/

theorem foregroundReport (d : Decoded) (a : Nat) (loc : Location) (locked orphan : Bool) :
    Continues s (t.foregroundReport d a loc locked orphan) := by
  unfold State.foregroundReport
  split
  · exact h
  · dsimp only
    split <;> exact h.inside

theorem prefetchReport (d : Decoded) (a : Nat) (loc : Location) (orphan : Bool) :
    Continues s (t.prefetchReport d a loc orphan) := by
  unfold State.prefetchReport
  split
  · exact h
  · cases orphan <;> exact h.inside
  · exact h.inside

theorem directReport (d : Decoded) (a : Nat) (loc : Location) (source : Source) (repair : Detected → Repair)
    (fault : Detected → FaultSource) : Continues s (t.directReport d a loc source repair fault) := by
  unfold State.directReport
  split
  · exact h
  · exact h.inside

theorem mergeReport (d : Option Decoded) (a : Nat) (loc : Location) : Continues s (t.mergeReport d a loc) := by
  cases d with
  | none => exact h
  | some d => exact h.directReport d a loc _ _ _

theorem scrubReport (d : Decoded) (a : Nat) (loc : Location) : Continues s (t.scrubReport d a loc) := by
  unfold State.scrubReport
  split
  · exact h.inside
  all_goals exact h.directReport _ _ _ _ _ _

/-! ### Reads -/

theorem serveBeats (req : Request) (marks : Option (List Bool)) (n : Nat) (fresh : Bool) :
    Continues s (State.serveBeats req marks n fresh t) := by
  obtain ⟨⟨l, sent⟩, mem, _, _, _, _, svcSent, pending⟩ := State.serveBeats_frame req marks n fresh t
  obtain ⟨pending', upSent', svcSent', array'⟩ := h
  exact ⟨pending.trans pending', upSent'.trans ⟨l, sent.symm⟩, svcSent ▸ svcSent', mem ▸ array'⟩

theorem retakeBeat : Continues s t.retakeBeat := by
  unfold State.retakeBeat
  split
  · exact h.serveBeats _ _ _ _
  · exact h

theorem answerBeat (d : Decoded) : Continues s (t.answerBeat d) := by
  unfold State.answerBeat
  split
  · split
    · exact (h.respond _).serveBeats _ _ _ _
    · exact (h.respond _).serveBeats _ _ _ _
    all_goals exact h.respond _
  · exact h

theorem answerLocked (d : Decoded) (a : Nat) : Continues s (t.answerLocked d a) := by
  unfold State.answerLocked
  split <;> exact h.respond _

/-! ### Writes -/

theorem insertBeats (locked through : Bool) (beats : List (Nat × Beat)) :
    Continues s (t.insertBeats locked through beats).state := by
  induction beats generalizing t with
  | nil => exact h
  | cons x rest ih =>
    have inserted : Continues s (t.insertBeat locked through x.1 x.2) := h.inside
    exact ih inserted

theorem insertWrite (req : Request) (marks : Option (List Bool)) (posting : PostingMode) :
    Continues s (t.insertWrite req marks posting) := by
  have inserted := h.insertBeats req.locked (decide (posting = .through)) (queuedBeats req marks)
  unfold State.insertWrite
  cases posting with
  | posted => exact inserted.respond _
  | through => exact inserted

theorem takeWrite (req : Request) : Continues s (t.takeWrite req) := by
  have stopped : Continues s { t with lock := if req.locked then timerStopped t.lock else t.lock } := h
  unfold State.takeWrite
  extract_lets t need
  split
  · exact stopped.respond _
  · split
    · exact stopped.insertWrite req _ _
    · exact stopped

theorem complete (req : Request) (failed : Bool) : Continues s (t.complete req failed) := h.respond _

/-! ### Presentation -/

theorem take (req : Request) : Continues s (t.take req) := by
  unfold State.take
  split
  · exact h.serveBeats _ _ _ _
  · unfold State.takeLockedRead
    split
    · exact h
    · exact h.respond _
  · exact h.takeWrite req

theorem refuse (req : Request) (fault : Option FaultSource) (ends : Bool) : Continues s (t.refuse req fault ends) := by
  have ended : Continues s { t with lock := if ends then none else t.lock } := h
  exact (ended.respond (refusal req.op)).occurOpt fault

theorem check (req : Request) : Continues s (t.check req) := by
  unfold State.check
  split
  · exact h.refuse _ _ _
  · exact h.take req

theorem present (req : Request) : Continues s (t.present req) := by
  have offered : Continues s { t with held := none } := h
  unfold State.present
  split
  · split
    · exact (offered.check req).settle
    · exact h
  · exact h

/-! ### Prefetched words -/

theorem serveWaitingLine (line : Nat) : Continues s (t.serveWaitingLine line) := by
  unfold State.serveWaitingLine
  split
  · split
    · exact h.retakeBeat
    · exact h
  · exact h

theorem keepPrefetched (entry : Option (Fin 2)) (line : Nat) (slot : RaSlot) :
    Continues s (t.keepPrefetched entry line slot) := by
  cases entry with
  | none => exact h
  | some i =>
    have filled : Continues s ((t.fillSlot i slot).zeroFill 16) := h.inside
    exact filled.serveWaitingLine line

/-! ### The migration -/

theorem releaseLines (n : Nat) : Continues s (State.releaseLines n t) := by
  induction n generalizing t with
  | zero => exact h
  | succ n ih =>
    unfold State.releaseLines
    split
    · exact h
    · rename_i line _
      have released : Continues s (t.released line) := h
      exact ih released

/-- What the end of a VERIFY does reaches the map, the engine, the records and the Fault Unit (R121 to R124). -/
theorem endVerify (n : Fin 8) (equal : Bool) : Continues s (t.endVerify n equal) := by
  unfold State.endVerify
  split
  · split
    · unfold State.verified
      split <;> exact h
    · unfold State.verifyFailed
      dsimp only
      split <;> exact h
  · exact h

theorem endOrphanVerify (n : Fin 8) (equal : Bool) : Continues s (t.endOrphanVerify n equal) := by
  unfold State.endOrphanVerify
  split <;> exact h

/-! ### The link and the command in execution -/

theorem finish (st : Status) (payload : List Byte) : Continues s (t.finish st payload) := h.inside

theorem resumeFrame : Continues s t.resumeFrame := h.inside

theorem endResponse (characters : List Byte) (resetPart : Bool) : Continues s (t.endResponse characters resetPart) :=
  h.transmitted characters

/-- A break that meets a response lets its whole characters out (R172). -/
theorem breakParser (sent : Nat) : Continues s (t.breakParser sent) := by
  unfold State.breakParser
  split
  · exact h
  · exact h
  · exact h
  · exact h.endResponse _ _

/-! ### The scrub and the expiries -/

theorem endScrubGrant : Continues s t.endScrubGrant := by
  have stopped : Continues s { t with scrub := t.scrub.stop } := h
  unfold State.endScrubGrant
  split
  · exact stopped.finish _ _
  · exact h

theorem takeExpiries : Continues s t.takeExpiries := by
  unfold State.takeExpiries
  split <;> exact h

omit h in
/-- Power-on keeps what has been sent and the queue of commands, and lists no location of the new array (log 5,
log 21). -/
theorem poweredOn (s : State) (straps : Straps) (level : Bool) : Continues s (s.poweredOn straps level) := by
  obtain ⟨pending, upSent, svcSent, _⟩ := refl s
  exact ⟨pending, upSent, svcSent, fun _ => rfl⟩

end Continues
end Sys2Proof.Machine
end

section
/-! Every command answers a next state in which the queue of commands stands, nothing sent is taken back, and the array
is in canonical form (log 1, log 3, log 6, log 10, log 21). -/

namespace Sys2Proof.Machine

/-- The outcome of a command on `s` is a next state in which `s` continues. -/
def Answers (s : State) (o : Host.Outcome State Fault Refusal) : Prop := ∃ t, o = .next t ∧ Continues s t

namespace Answers

theorem next {s t : State} (h : Continues s t) : Answers s (.next t) := ⟨t, rfl, h⟩

/-- A command whose effect is followed by the end of the event. -/
theorem settled {s t : State} (h : Continues s t) : Answers s (.next t.settle) := .next h.settle

/-- A command that cannot come about leaves the state as it is (log 1). -/
theorem same (s : State) : Answers s (.next s) := .next (.refl s)

/-- A command that acts under a condition alone. -/
theorem guarded {s t : State} {p : Prop} [Decidable p] (h : Continues s t) :
    Answers s (if p then .next t else .next s) := by
  split
  · exact .next h
  · exact .same s

/-- A service command is carried out where the Command Unit has been handed it (R175). -/
theorem served {s : State} (c : SvcCommand) {f : State → State} (h : Continues s (f s)) : Answers s (s.serve c f) :=
  .guarded h

variable (s : State)

/-- A service command that is answered with a payload and does nothing else. -/
theorem answered (c : SvcCommand) (payload : State → List Byte) :
    Answers s (s.serve c fun t => t.finish .ok (payload t)) :=
  .served c ((Continues.refl s).finish .ok (payload s))

/-! ### The system reset -/

theorem execSystemReset (cause : ResetCause) : Answers s (execSystemReset cause s) := by
  have fallen : Continues s { s.systemReset with rstN := false } := .refl s
  have taken : Continues s { s.systemReset with resetDue := false } := .refl s
  cases cause with
  | rstnFalls => exact .guarded fallen.settle
  | resetPart => exact .guarded taken.settle

theorem execRstNRises : Answers s (execRstNRises s) := by
  unfold Machine.execRstNRises
  split
  · exact .same s
  · exact .next (.refl s)

theorem execResetCompletes : Answers s (execResetCompletes s) := by
  have completed : Continues s { s with resetInProgress := false, port := .ready } := .refl s
  exact .guarded completed.settle

theorem execFillBegins : Answers s (execFillBegins s) := by
  have begun : Continues s { s with fill := ⟨true, 0, false⟩ } := .refl s
  exact .guarded begun.settle

/-! ### Commands of the upstream port -/

theorem execWriteInsertion : Answers s (execWriteInsertion s) := by
  unfold Machine.execWriteInsertion
  split
  · exact .guarded ((Continues.refl s).insertWrite _ _ _).settle
  · exact .same s

theorem execWriteCompletion : Answers s (execWriteCompletion s) := by
  unfold Machine.execWriteCompletion
  split
  · exact .settled ((Continues.refl s).complete _ _)
  · exact .same s

theorem execReadBeatRetaken : Answers s (execReadBeatRetaken s) := by
  unfold Machine.execReadBeatRetaken
  split
  · exact .guarded (Continues.refl s).retakeBeat.settle
  · exact .same s

/-! ### The ends of the array operations -/

theorem execForegroundRead (u : Upset) : Answers s (execForegroundRead u s) := by
  unfold Machine.execForegroundRead
  split
  · extract_lets t d r
    have reported : Continues s r := ((Continues.refl s).opened _ u).foregroundReport _ _ _ _ _
    refine .settled ?_
    split
    · exact reported
    · exact reported.answerBeat _
  · exact .same s

theorem execLockedReadDecode (u : Upset) : Answers s (execLockedReadDecode u s) := by
  unfold Machine.execLockedReadDecode
  split
  · extract_lets t d r
    have reported : Continues s r := ((Continues.refl s).opened _ u).foregroundReport _ _ _ _ _
    refine .settled ?_
    split
    · exact reported
    · exact reported.answerLocked _ _
  · exact .same s

/-- The drain's word is written to one location or to two, and the head leaves the queue (R51 to R53). -/
theorem execDrainEnd (u : Upset) : Answers s (execDrainEnd u s) := by
  unfold Machine.execDrainEnd
  split
  · extract_lets t w r
    have reported : Continues s r := ((((Continues.refl s).opened _ u).store _ _).storeDual _ _).mergeReport _ _ _
    exact .settled reported
  · exact .same s

theorem execPrefetchRead (u : Upset) : Answers s (execPrefetchRead u s) := by
  unfold Machine.execPrefetchRead
  split
  · exact .settled ((((Continues.refl s).opened _ u).prefetchReport _ _ _ _).keepPrefetched _ _ _)
  · exact .same s

theorem execFillWrite : Answers s (execFillWrite s) := by
  unfold Machine.execFillWrite
  split
  · rename_i loc _ _
    have filled : Continues s { s with mem := s.mem.fillAt loc } := (Continues.refl s).array (s.mem.wf_fillAt loc)
    exact .settled filled
  · exact .same s

theorem execInspectRead (u : Upset) : Answers s (execInspectRead u s) := by
  unfold Machine.execInspectRead
  split
  · exact .settled (((Continues.refl s).opened _ u).finish _ _)
  · exact .same s

/-! ### The migration -/

theorem execMigrationStart : Answers s (execMigrationStart s) := by
  unfold Machine.execMigrationStart
  split
  · split
    · exact .same s
    · split
      · rename_i line _ _ n _
        have started : Continues s (s.startMigration line .promotion n) := .refl s
        exact .settled started
      · exact .settled ((Continues.refl s).releaseLines _)
  · exact .same s

theorem execMigrationRead (u : Upset) : Answers s (execMigrationRead u s) := by
  unfold Machine.execMigrationRead
  split
  · extract_lets t w r
    have reported : Continues s r := ((Continues.refl s).opened _ u).directReport _ _ _ _ _ _
    refine .settled ?_
    split <;> exact reported
  · exact .same s

theorem execMigrationWrite : Answers s (execMigrationWrite s) := by
  unfold Machine.execMigrationWrite
  split
  · extract_lets r
    have stored : Continues s r := (Continues.refl s).store _ _
    refine .settled ?_
    split <;> exact stored
  · exact .same s

theorem execMigrationVerify (u : Upset) : Answers s (execMigrationVerify u s) := by
  unfold Machine.execMigrationVerify
  split
  · extract_lets t equal
    have opened : Continues s t := (Continues.refl s).opened _ u
    refine .settled ?_
    split
    · exact opened.endOrphanVerify _ _
    · exact opened.endVerify _ _
  · exact .same s

/-! ### The scrub, the tick and the expiries -/

/-- A word that the scrub corrects or marks is written back (R141). -/
theorem execScrubWord (u : Upset) : Answers s (execScrubWord u s) := by
  unfold Machine.execScrubWord
  split
  · rename_i a loc location orphan _
    extract_lets m w t
    have canonical (h : s.mem.wf = true) :
        (if scrubbedWord w = w then m else m.write loc (scrubbedWord w)).wf = true := by
      have disturbed : m.wf = true := s.mem.wf_disturbed loc u h
      split
      · exact disturbed
      · exact m.wf_write loc _ disturbed
    have reported : Continues s t := ((Continues.refl s).array canonical).scrubReport _ _ _
    have ended : Continues s { (if orphan then t else t.advanceScrub) with grant := none } := by
      split <;> exact reported
    exact .settled ended.endScrubGrant
  · exact .same s

theorem execTick : Answers s (execTick s) := by
  have ticked : Continues s { s.takeExpiries with
      lock := s.takeExpiries.lock.map Lock.ticked, scrub := s.takeExpiries.scrub.ticked,
      tickLength := s.takeExpiries.settings.tickDivisor } := (Continues.refl s).takeExpiries
  exact .settled ticked

theorem execLockHoldExpiry : Answers s (execLockHoldExpiry s) := by
  have expired : Continues s s.expireLock := .refl s
  exact .guarded expired.settle

theorem execScrubIntervalExpiry : Answers s (execScrubIntervalExpiry s) := by
  have expired : Continues s s.expireInterval := .refl s
  exact .guarded expired.settle

/-! ### The link -/

theorem execCharacterReceived (samples : BitVec 30) : Answers s (execCharacterReceived samples s) := by
  unfold Machine.execCharacterReceived
  split <;> exact .next (.refl s)

theorem execBreakReceived (sent : Nat) : Answers s (execBreakReceived sent s) := by
  have broken : Continues s { s with link := s.link.broken } := .refl s
  unfold Machine.execBreakReceived
  split
  · exact .guarded (broken.breakParser sent)
  · exact .same s

theorem execParserTakesItem : Answers s (execParserTakesItem s) := by
  have linked (l : Link) : Continues s { s with link := l } := .refl s
  unfold Machine.execParserTakesItem
  split
  · exact .next (linked _)
  · split
    · exact .same s
    · exact .next (linked _).resumeFrame
  · exact .same s

theorem execResponseSent : Answers s (execResponseSent s) := by
  unfold Machine.execResponseSent
  split
  · exact .next ((Continues.refl s).endResponse _ _)
  · exact .same s

theorem execReceiverReturnsToIdle : Answers s (execReceiverReturnsToIdle s) := by
  unfold Machine.execReceiverReturnsToIdle
  split <;> exact .next (.refl s)

/-! ### Service commands -/

theorem execClearFaults (mask : BitVec 16) : Answers s (execClearFaults mask s) := by
  have cleared : Continues s (s.clearFaults mask) := .refl s
  refine .served _ ?_
  split
  · exact (Continues.refl s).finish _ _
  · exact cleared.finish _ _

theorem execReleaseMode : Answers s (execReleaseMode s) := by
  have released : Continues s s.releaseMode := .refl s
  exact .served _ (released.finish _ _).settle

theorem execReadRecords (index count : Byte) : Answers s (execReadRecords index count s) := by
  refine .served _ ?_
  split <;> exact (Continues.refl s).finish _ _

theorem execCloseRecord (address : BitVec 24) : Answers s (execCloseRecord address s) := by
  have closed : Continues s { s with records := withoutRecord address.toNat s.records } := .refl s
  refine .served _ ?_
  split
  · exact (Continues.refl s).finish _ _
  · split
    · exact (Continues.refl s).finish _ _
    · exact closed.finish _ _

theorem execClearRecords : Answers s (execClearRecords s) := by
  have cleared : Continues s { s with records := s.records.filter ErrRecord.pinned } := .refl s
  exact .served _ (cleared.finish _ _)

theorem execSpareLine (line : BitVec 24) : Answers s (execSpareLine line s) := by
  have started (n : Fin 8) : Continues s (s.startMigration line.toNat .command n) := .refl s
  refine .served _ ?_
  split
  · exact (Continues.refl s).finish _ _
  · split
    · exact (Continues.refl s).finish _ _
    · split
      · exact (Continues.refl s).finish _ _
      · exact ((started _).finish _ _).settle

theorem execScrubStart (mode : Byte) : Answers s (execScrubStart mode s) := by
  have started (m : ScrubMode) : Continues s (s.startScrub m) := .refl s
  refine .served _ ?_
  split
  · exact (Continues.refl s).finish _ _
  · split
    · exact (Continues.refl s).finish _ _
    · exact ((started _).finish _ _).settle

theorem execScrubStop : Answers s (execScrubStop s) := by
  have stopped : Continues s { s with scrub := s.scrub.stop } := .refl s
  refine .served _ ?_
  dsimp only
  split
  · exact .refl s
  · split
    · exact stopped
    · exact (stopped.finish _ _).settle

theorem execGetSetting (item : Byte) : Answers s (execGetSetting item s) := by
  refine .served _ ?_
  split <;> exact (Continues.refl s).finish _ _

theorem execSetSetting (item : Byte) (value : Word) : Answers s (execSetSetting item value s) := by
  have put : Continues s { s with settings := (s.putSetting item value).2 } := .refl s
  unfold Machine.execSetSetting
  split
  · exact .same s
  · exact .served _ (put.finish _ _)

theorem execSetReaction (source : FaultSource) (value : Word) : Answers s (execSetReaction source value s) := by
  have reacted (r : Reaction) : Continues s (s.react source r) := .refl s
  refine .served _ ?_
  split
  · exact (Continues.refl s).finish _ _
  · exact ((reacted _).finish _ _).settle

theorem execInspect (location : BitVec 24) : Answers s (execInspect location s) := by
  have waiting : Continues s s.waitForGrant := .refl s
  refine .served _ ?_
  split
  · exact (Continues.refl s).finish _ _
  · split
    · exact (Continues.refl s).finish _ _
    · exact waiting.settle

end Answers

/-! ### Every command -/

/-- Every command, in every state. -/
theorem exec_answers (c : Instr) (s : State) : Answers s (exec c s) := by
  cases c with
  | powerOn straps rstN => exact .settled (.poweredOn s straps rstN)
  | systemReset cause => exact .execSystemReset s cause
  | rstNRises => exact .execRstNRises s
  | resetCompletes => exact .execResetCompletes s
  | fillBegins => exact .execFillBegins s
  | readRequest | writeRequest | lockedReadRequest | lockedWriteRequest =>
    exact .guarded ((Continues.refl s).present _)
  | writeInsertion => exact .execWriteInsertion s
  | writeCompletion => exact .execWriteCompletion s
  | readBeatRetaken => exact .execReadBeatRetaken s
  | foregroundRead u => exact .execForegroundRead s u
  | lockedReadDecode u => exact .execLockedReadDecode s u
  | drainEnd u => exact .execDrainEnd s u
  | prefetchRead u => exact .execPrefetchRead s u
  | fillWrite => exact .execFillWrite s
  | migrationStart => exact .execMigrationStart s
  | migrationRead u => exact .execMigrationRead s u
  | migrationWrite => exact .execMigrationWrite s
  | migrationVerify u => exact .execMigrationVerify s u
  | scrubWord u => exact .execScrubWord s u
  | tick => exact .execTick s
  | lockHoldExpiry => exact .execLockHoldExpiry s
  | scrubIntervalExpiry => exact .execScrubIntervalExpiry s
  | startBitDetected | frameTimerExpiry => exact .guarded (.refl s)
  | characterReceived samples => exact .execCharacterReceived s samples
  | receiverReturnsToIdle => exact .execReceiverReturnsToIdle s
  | breakReceived sent => exact .execBreakReceived s sent
  | parserTakesItem => exact .execParserTakesItem s
  | responseSent => exact .execResponseSent s
  | identify => exact .answered s .identify fun t => identifyBytes t.straps
  | readStatus => exact .answered s .readStatus State.statusBytes
  | readFaults => exact .answered s .readFaults State.faultBytes
  | readSpareMap => exact .answered s .readSpareMap fun t => spareMapBytes t.spareMap
  | resetPart => exact .answered s .resetPart fun _ => []
  | clearFaults mask => exact .execClearFaults s mask
  | releaseMode => exact .execReleaseMode s
  | readRecords index count => exact .execReadRecords s index count
  | closeRecord address => exact .execCloseRecord s address
  | clearRecords => exact .execClearRecords s
  | spareLine line => exact .execSpareLine s line
  | scrubStart mode => exact .execScrubStart s mode
  | scrubStop => exact .execScrubStop s
  | getSetting item => exact .execGetSetting s item
  | setSetting item value => exact .execSetSetting s item value
  | setReaction source value => exact .execSetReaction s source value
  | inspect location => exact .execInspect s location
  | inspectRead u => exact .execInspectRead s u

/-- Settles O2: what each command answers, with what has been sent as lists that are added to. -/
theorem everyCommandAnswersNext : Obligations.EveryCommandAnswersNext := by
  intro c s
  obtain ⟨t, answer, pending, ⟨l, upSent⟩, ⟨k, svcSent⟩, _⟩ := exec_answers c s
  exact ⟨t, answer, pending, ⟨l, upSent.symm⟩, ⟨k, svcSent.symm⟩⟩

/-- Settles O53: on an empty queue of commands a step idles, and otherwise it runs the command at the front, which keeps
the canonical form. -/
theorem arrayStaysCanonical : Obligations.ArrayStaysCanonical := by
  intro s t h ht
  cases hp : s.pending with
  | nil =>
    rw [step_idle hp] at ht
    obtain rfl := Host.Outcome.next.inj ht
    exact h
  | cons c cs =>
    obtain ⟨u, answer, _, _, _, array⟩ := exec_answers c (s.withPending cs)
    rw [step_front hp, answer] at ht
    obtain rfl := Host.Outcome.next.inj ht
    exact array h

end Sys2Proof.Machine
end
